-- ==== Sys2Proof/Word.lean ====
section
/-! DEFINITION. The word types of BME280-CPB. -/

namespace Sys2Proof

/-- A sensor register's data, and every 8-bit quantity of the block (00_scope.md R7). -/
abbrev Byte := BitVec 8

/-- A host register and a command word: 32 bits (00_scope.md R8). -/
abbrev Word := BitVec 32

end Sys2Proof
end

