-- ==== Sys2Proof/Config.lean ====
section
/-! DEFINITION. What an implementation of BME280-CPB fixes: the named parameters of 00_scope.md R9 and the
constants of R7, R8 and 20_memory.md R61. -/

namespace Sys2Proof.Config

/-- The two named parameters of the block (00_scope.md R9). They are plain data that State carries and no step
changes, so a claim about every state is a claim about every choice of them. -/
structure Params where
  /-- `RESET_CTRL`: the reset value of the configuration shadow, ctrl_hum:ctrl_meas:config. -/
  resetCtrl : BitVec 24
  /-- `SETMODE_CLEARS_MODE`: whether SETMODE clears the old mode bits before it sets the new ones. -/
  setmodeClearsMode : Bool
  deriving DecidableEq, Repr

/-- The defaults of 00_scope.md R9. -/
def defaults : Params := { resetCtrl := 0x0125A0#24, setmodeClearsMode := false }

/-! The sensor register map (20_memory.md R61). -/

/-- Identity register. -/
def identityAddr : Byte := 0xD0#8
/-- Humidity control register. -/
def ctrlHumAddr : Byte := 0xF2#8
/-- Measurement control register. -/
def ctrlMeasAddr : Byte := 0xF4#8
/-- Config register. -/
def configAddr : Byte := 0xF5#8
/-- Start of the eight data registers. -/
def dataAddr : Byte := 0xF7#8
/-- Temperature calibration block. -/
def calTempAddr : Byte := 0x88#8
/-- Pressure calibration block. -/
def calPresAddr : Byte := 0x8E#8
/-- Humidity calibration block 1. -/
def calHum1Addr : Byte := 0xA1#8
/-- Humidity calibration block 2. -/
def calHum2Addr : Byte := 0xE1#8

/-- The two accepted identities (00_scope.md R2, 40_configurator.md R121). -/
def acceptedIdentity (b : Byte) : Bool := b == 0x60#8 || b == 0x58#8

/-- The ceiling of the humidity clamp (42_compensation.md R217). -/
def humidityCeiling : Int := 419430400

end Sys2Proof.Config
end

