-- ==== Sys2Proof/Syntax.lean ====
section
/-! DEFINITION. The eleven commands of BME280-CPB (30_encoding.md R92), with their operands. -/

namespace Sys2Proof

/-- The temperature unit TU (30_encoding.md R97). -/
inductive TempUnit where
  | celsius
  | fahrenheit
  deriving DecidableEq, Repr

/-- One constructor per row of spec/opcode_table.json. An operand that the block stores or ORs as bits is a bit
vector of its field's width (30_encoding.md R91). -/
inductive Instr where
  /-- Identity check, control writes, calibration reads (40_configurator.md R120). -/
  | init
  /-- New configuration: the images of ctrl_hum, ctrl_meas and config (40_configurator.md R128). -/
  | configure (hum meas cfg : Byte)
  /-- New sampling mode (40_configurator.md R133). -/
  | setmode (mode : BitVec 2)
  /-- Acquire one raw sample (41_sampler.md R160). -/
  | readraw
  /-- Temperature compensation of the present sample (42_compensation.md R190). -/
  | compt (tu : TempUnit)
  /-- Pressure compensation of the present sample (42_compensation.md R200). -/
  | compp (pu : BitVec 4)
  /-- Humidity compensation of the present sample (42_compensation.md R215). -/
  | comph
  /-- Acquire, then temperature (43_orchestration.md R243). -/
  | readt (tu : TempUnit)
  /-- Acquire, then temperature and pressure (43_orchestration.md R245). -/
  | readp (pu : BitVec 4)
  /-- Acquire, then temperature and humidity (43_orchestration.md R247). -/
  | readh
  /-- Acquire, then all three (43_orchestration.md R249). -/
  | readall (tu : TempUnit) (pu : BitVec 4)
  deriving DecidableEq, Repr

end Sys2Proof
end

