-- ==== Sys2Proof/Machine/State.lean ====
section
/-! DEFINITION. Everything the spec gives the machine, as plain data: the architectural state `S` (10_state.md R20), the
sequencer (R41, R42), the parameters (00_scope.md R9), and what stands outside the block as far as a step meets it: the
host's accesses and the sensor's answers still to come, what the sensor's registers are taken to hold, and what has left
the block's two ports. -/

namespace Sys2Proof.Machine

/-- The nine error codes (60_exceptions.md R260); codes 0x09 to 0xFF are never produced. -/
inductive ErrorCode where
  | ok
  | identityMismatch
  | calibrationReadIncomplete
  | transportReadError
  | transportWriteError
  | notInitialized
  | divideByZero
  | dependencyViolation
  | illegalCommand
  deriving DecidableEq, Repr

/-- The elements of `S` (10_state.md R20) other than `busy` and `ovr`: exactly what a command stages and commits (R41). -/
structure Regs where
  /-- 1 once INIT has succeeded. -/
  ready : Bool
  /-- Error code of the last completed command. -/
  err : ErrorCode
  /-- The last completed command overflowed an arithmetic operation. -/
  aovf : Bool
  /-- Sticky: some completed command overflowed. -/
  aovfAny : Bool
  /-- Last identity byte read. -/
  chipId : Byte
  /-- Configuration shadow, three bytes (R26). -/
  ctrlHum : Byte
  ctrlMeas : Byte
  config : Byte
  /-- Calibration table bytes (R39). -/
  cal : Vector Byte 32
  /-- Raw pressure, temperature and humidity (R40). -/
  adcP : BitVec 20
  adcT : BitVec 20
  adcH : BitVec 16
  /-- Count of raw samples acquired, wrapping. -/
  sampleSeq : BitVec 32
  /-- t_fine of the current sample, s32. -/
  tFine : BitVec 32
  /-- Temperature in hundredths of a degree Celsius, s32. -/
  tOut : BitVec 32
  /-- Pressure in Pa, unsigned Q24.8. -/
  pOut : BitVec 32
  /-- Relative humidity in percent, unsigned Q22.10. -/
  hOut : BitVec 32
  /-- Dependency-enforcer flags. -/
  rawValid : Bool
  tfineValid : Bool
  /-- The result is a number: 0 is the NaN sentinel (R36). -/
  tValid : Bool
  pValid : Bool
  hValid : Bool
  /-- Temperature unit requested. -/
  tunit : TempUnit
  /-- Pressure unit code requested. -/
  punit : BitVec 4
  deriving DecidableEq, Repr

/-- The reset value of every element (10_state.md R44), the shadow's being `RESET_CTRL` (R27). -/
def Regs.reset (p : Config.Params) : Regs :=
  { ready := false, err := .ok, aovf := false, aovfAny := false, chipId := 0#8,
    ctrlHum := p.resetCtrl.extractLsb' 16 8,
    ctrlMeas := p.resetCtrl.extractLsb' 8 8,
    config := p.resetCtrl.extractLsb' 0 8,
    cal := Vector.replicate 32 0#8,
    adcP := 0#20, adcT := 0#20, adcH := 0#16, sampleSeq := 0#32,
    tFine := 0#32, tOut := 0#32, pOut := 0#32, hOut := 0#32,
    rawValid := false, tfineValid := false, tValid := false, pValid := false, hValid := false,
    tunit := .celsius, punit := 0#4 }

/-- A transport transaction (20_memory.md R66, R71): `XRead(addr, n)` or `XWrite(addr, v)`. -/
inductive Txn where
  | read (addr : Byte) (n : Nat)
  | write (addr v : Byte)
  deriving DecidableEq, Repr

/-- One entry of the sensor's behaviour to come. `answer` is the transport's answer to the outstanding transaction, as
the contract of 20_memory.md R66 gives it (a success flag, and bytes for a read). `wait` gives the host one turn while a
command runs, before the block moves on. -/
inductive Reply where
  | wait
  | answer (success : Bool) (bytes : List Byte)
  deriving DecidableEq, Repr

/-- An accepted command word, decoded once at acceptance (30_encoding.md R100): a command, or a word that is refused. -/
inductive Command where
  | legal (i : Instr)
  | illegal (w : Word)
  deriving DecidableEq, Repr

/-- What the sequencer holds in RUN (10_state.md R41, R42). -/
structure Run where
  /-- The command word being run. -/
  command : Command
  /-- The index of the next transport transaction to be answered. -/
  index : Nat
  /-- The staged copy `S'`. -/
  staged : Regs
  /-- INIT's count of calibration bytes obtained (40_configurator.md R120). -/
  got : Nat
  /-- INIT's calibration bytes, `none` while undefined (40_configurator.md R120). -/
  buf : Vector (Option Byte) 32
  deriving DecidableEq, Repr

/-- The sequencer phase (10_state.md R42): IDLE, or RUN with a transaction outstanding, or RUN with `finish(code)`
reached and the commit still to come (70_reset_and_hazards.md R306). -/
inductive Phase where
  | idle
  | waiting (run : Run) (txn : Txn)
  | finishing (run : Run) (code : ErrorCode)
  deriving DecidableEq, Repr

/-- What reaches the block from outside its transport: a host write or read of one register index (20_memory.md R62), or
the platform's reset (70_reset_and_hazards.md R290). -/
inductive Input where
  | write (index : BitVec 8) (w : Word)
  | read (index : BitVec 8)
  | reset
  deriving DecidableEq, Repr

/-- Known contents of a byte-addressed space: (address, byte) pairs, addresses strictly rising; an unlisted address is
unknown. -/
abbrev Memory := List Host.Cell

structure State where
  /-- The committed elements of `S` but `busy` and `ovr`. -/
  regs : Regs
  /-- `S.ovr`: sticky, a CMD write arrived while busy (10_state.md R24). -/
  ovr : Bool
  /-- The sequencer phase; `S.busy` is computed from it (10_state.md R42). -/
  phase : Phase
  /-- The named parameters (00_scope.md R9): no step changes them. -/
  params : Config.Params
  /-- The host's accesses and the platform's resets still to come, oldest first. -/
  inputs : List Input
  /-- The sensor's answers still to come, in the order the transactions are issued (20_memory.md R67). -/
  oracle : List Reply
  /-- What the sensor's registers are taken to hold (20_memory.md R68): the last acknowledged write of each address. -/
  sensor : Memory
  /-- The transactions issued so far, newest first (20_memory.md R69). -/
  bus : List Txn
  /-- The words that host reads returned, with their indices, newest first (10_state.md R23). -/
  reads : List (BitVec 8 × Word)
  deriving DecidableEq, Repr

/-- The block has no traps: every command, on every state and every answer, commits or waits for ever
(60_exceptions.md R264; 93_implementation_defined.md). So no step ends in a fault, and there is no reason to name. -/
inductive Fault where
  deriving DecidableEq, Repr

/-- Why the model gives no meaning. -/
inductive Refusal where
  /-- An arm of exec not written yet. Raised by no arm of this model. Safe: the run stops. -/
  | notModelled (mnemonic : String)
  deriving DecidableEq, Repr

/-- The machine right after reset under parameters `p` (70_reset_and_hazards.md R290, 10_state.md R44), nothing placed in
its environment. -/
def State.resetWith (p : Config.Params) : State :=
  { regs := Regs.reset p, ovr := false, phase := .idle, params := p,
    inputs := [], oracle := [], sensor := [], bus := [], reads := [] }

/-- The machine right after reset, with the parameters at their defaults (00_scope.md R9). -/
def State.reset : State := State.resetWith Config.defaults

/-- `S.busy`: the sequencer is in RUN (10_state.md R42). -/
def State.busy (s : State) : Bool :=
  match s.phase with
  | .idle => false
  | .waiting _ _ => true
  | .finishing _ _ => true

end Sys2Proof.Machine
end

