-- ==== Sys2Proof/Machine/Flags.lean ====
section
/-! DEFINITION. Every flag computation: the checked arithmetic whose overflow indication becomes AOVF
(42_compensation.md R180 to R184), the error code bytes (60_exceptions.md R260), and the STATUS and FLAGS words
(10_state.md R25, R36). -/

namespace Sys2Proof.Machine

/-- A W-bit two's-complement number together with whether any operation that led to it overflowed. -/
structure Checked (w : Nat) where
  val : BitVec w
  ovf : Bool
  deriving DecidableEq, Repr

/-- The result of one checked operation whose exact integer result is `e` (R180): the wrapped value, and the overflow
indication if `e` does not fit, joined to the operands' own. -/
def Checked.ofExact {w : Nat} (e : Int) (ovf : Bool) : Checked w :=
  { val := BitVec.ofInt w e, ovf := ovf || (BitVec.ofInt w e).toInt != e }

/-- An operand or a literal at the working width: exact, not an operation (R183). -/
def Checked.lit {w : Nat} (x : Int) : Checked w := { val := BitVec.ofInt w x, ovf := false }

/-- `a + b` (R180). -/
def Checked.add {w : Nat} (a b : Checked w) : Checked w := Checked.ofExact (a.val.toInt + b.val.toInt) (a.ovf || b.ovf)

/-- `a - b` (R180). -/
def Checked.sub {w : Nat} (a b : Checked w) : Checked w := Checked.ofExact (a.val.toInt - b.val.toInt) (a.ovf || b.ovf)

/-- `a * b` (R180). -/
def Checked.mul {w : Nat} (a b : Checked w) : Checked w := Checked.ofExact (a.val.toInt * b.val.toInt) (a.ovf || b.ovf)

/-- `a << k`: the exact product with `2^k` (R180). -/
def Checked.shl {w : Nat} (a : Checked w) (k : Nat) : Checked w := Checked.ofExact (a.val.toInt * 2 ^ k) a.ovf

/-- `a >> k`: the arithmetic right shift, which never overflows (R181). -/
def Checked.shr {w : Nat} (a : Checked w) (k : Nat) : Checked w := { val := a.val.sshiftRight k, ovf := a.ovf }

/-- `a / b`, truncated toward zero; only -2^(W-1) / -1 overflows (R182). -/
def Checked.div {w : Nat} (a b : Checked w) : Checked w := Checked.ofExact (a.val.toInt.tdiv b.val.toInt) (a.ovf || b.ovf)

/-- The error code as STATUS.ERR shows it (60_exceptions.md R260). -/
def ErrorCode.byte : ErrorCode → Byte
  | .ok => 0x00#8
  | .identityMismatch => 0x01#8
  | .calibrationReadIncomplete => 0x02#8
  | .transportReadError => 0x03#8
  | .transportWriteError => 0x04#8
  | .notInitialized => 0x05#8
  | .divideByZero => 0x06#8
  | .dependencyViolation => 0x07#8
  | .illegalCommand => 0x08#8

/-- One bit of a status word. -/
def bit (b : Bool) : BitVec 1 := BitVec.ofBool b

/-- The bit of TUNIT: 0 Celsius, 1 Fahrenheit (10_state.md R36). -/
def tunitBit : TempUnit → BitVec 1
  | .celsius => 0#1
  | .fahrenheit => 1#1

/-- STATUS (10_state.md R25): BUSY and OVR live, the rest as committed. -/
def State.statusWord (s : State) : Word :=
  0#19 ++ bit s.regs.aovfAny ++ bit s.regs.aovf ++ bit s.ovr ++ bit s.regs.ready ++ bit s.busy ++ s.regs.err.byte

/-- FLAGS (10_state.md R36). -/
def Regs.flagsWord (S : Regs) : Word :=
  0#16 ++ S.punit ++ 0#3 ++ tunitBit S.tunit ++ 0#3 ++ bit S.hValid ++ bit S.pValid ++ bit S.tValid ++
    bit S.tfineValid ++ bit S.rawValid

end Sys2Proof.Machine
end

