-- ==== Sys2Proof/Machine/Operands.lean ====
section
/-! DEFINITION. Every operand form: the 18 calibration coefficients decoded from `S.cal` (41_sampler.md R150 to R153) and
the three raw values assembled from the 8-byte burst (20_memory.md R64, 41_sampler.md R162). -/

namespace Sys2Proof.Machine

/-- The calibration coefficients as exact integers, zero- or sign-extended (42_compensation.md R183). -/
structure Coeffs where
  t1 : Int
  t2 : Int
  t3 : Int
  p1 : Int
  p2 : Int
  p3 : Int
  p4 : Int
  p5 : Int
  p6 : Int
  p7 : Int
  p8 : Int
  p9 : Int
  h1 : Int
  h2 : Int
  h3 : Int
  h4 : Int
  h5 : Int
  h6 : Int
  deriving DecidableEq, Repr

/-- `le16`: the lower index is the less significant byte (20_memory.md R65). -/
def le16 (lo hi : Byte) : BitVec 16 := hi ++ lo

/-- A 12-bit coefficient: its high eight bits, signed, and a nibble (41_sampler.md R152). -/
def sext12 (hi : Byte) (nibble : BitVec 4) : Int := hi.toInt * 16 + nibble.toNat

/-- The coefficient table (41_sampler.md R152). -/
def coeffs (cal : Vector Byte 32) : Coeffs :=
  { t1 := (le16 cal[0] cal[1]).toNat
    t2 := (le16 cal[2] cal[3]).toInt
    t3 := (le16 cal[4] cal[5]).toInt
    p1 := (le16 cal[6] cal[7]).toNat
    p2 := (le16 cal[8] cal[9]).toInt
    p3 := (le16 cal[10] cal[11]).toInt
    p4 := (le16 cal[12] cal[13]).toInt
    p5 := (le16 cal[14] cal[15]).toInt
    p6 := (le16 cal[16] cal[17]).toInt
    p7 := (le16 cal[18] cal[19]).toInt
    p8 := (le16 cal[20] cal[21]).toInt
    p9 := (le16 cal[22] cal[23]).toInt
    h1 := cal[24].toNat
    h2 := (le16 cal[25] cal[26]).toInt
    h3 := cal[27].toNat
    h4 := sext12 cal[28] (cal[29].extractLsb' 0 4)
    h5 := sext12 cal[30] (cal[29].extractLsb' 4 4)
    h6 := cal[31].toInt }

/-- A 20-bit raw value from its three bytes, most significant first; the low nibble of the last is discarded
(20_memory.md R64). -/
def raw20 (b0 b1 b2 : Byte) : BitVec 20 := b0 ++ b1 ++ b2.extractLsb' 4 4

/-- The 16-bit raw humidity, most significant byte first (20_memory.md R64). -/
def raw16 (b0 b1 : Byte) : BitVec 16 := b0 ++ b1

end Sys2Proof.Machine
end

