-- ==== Sys2Proof/Machine/Formulas.lean ====
section
/-! DEFINITION. The three compensation polynomials, one checked operation at a time in the order the spec breaks them
into (42_compensation.md R180 to R184, R191, R202, R216). A number carries the overflow indication of every operation
that led to it, so the last number of a formula carries the whole formula's. The formulas are irreducible, so that no
proof about a command unfolds one by accident. -/

namespace Sys2Proof.Machine

/-- What `temp_formula` returns, each s32. -/
structure TempResult where
  tFine : Checked 32
  tOut : Checked 32
  deriving DecidableEq, Repr

/-- `temp_formula` (42_compensation.md R191), W = 32. -/
@[irreducible] def tempFormula (adcT : BitVec 20) (c : Coeffs) : TempResult :=
  let adc : Checked 32 := .lit adcT.toNat
  let t1 : Checked 32 := .lit c.t1
  let t2 : Checked 32 := .lit c.t2
  let t3 : Checked 32 := .lit c.t3
  let a := (adc.shr 3).sub (t1.shl 1)
  let m1 := a.mul t2
  let var1 := m1.shr 11
  let b := (adc.shr 4).sub t1
  let m2 := b.mul b
  let m3 := (m2.shr 12).mul t3
  let var2 := m3.shr 14
  let tFine := var1.add var2
  let m4 := tFine.mul (.lit 5)
  let tOut := (m4.add (.lit 128)).shr 8
  { tFine := tFine, tOut := tOut }

/-- What the first half of `pres_formula` leaves: the denominator and the second accumulator. -/
structure PresStage where
  var1 : Checked 64
  var2 : Checked 64
  deriving DecidableEq, Repr

/-- `pres_formula` up to the guard (42_compensation.md R202), W = 64. -/
@[irreducible] def presDenominator (tFine : BitVec 32) (c : Coeffs) : PresStage :=
  let v := (Checked.lit tFine.toInt : Checked 64).sub (.lit 128000)
  let q1 := v.mul v
  let var2 := q1.mul (.lit c.p6)
  let q2 := v.mul (.lit c.p5)
  let q3 := q2.shl 17
  let var2 := var2.add q3
  let q4 := (Checked.lit c.p4 : Checked 64).shl 35
  let var2 := var2.add q4
  let q5 := v.mul v
  let q6 := q5.mul (.lit c.p3)
  let q7 := q6.shr 8
  let q8 := v.mul (.lit c.p2)
  let q9 := q8.shl 12
  let var1 := q7.add q9
  let q10 := (Checked.lit (2 ^ 47) : Checked 64).add var1
  let q11 := q10.mul (.lit c.p1)
  { var1 := q11.shr 33, var2 := var2 }

/-- `pres_formula` after the guard (42_compensation.md R202): the final s64 `p`. -/
@[irreducible] def presQuotient (adcP : BitVec 20) (d : PresStage) (c : Coeffs) : Checked 64 :=
  let p := (Checked.lit 1048576 : Checked 64).sub (.lit adcP.toNat)
  let q12 := p.shl 31
  let q13 := q12.sub d.var2
  let q14 := q13.mul (.lit 3125)
  let p := q14.div d.var1
  let s := p.shr 13
  let q15 := (Checked.lit c.p9 : Checked 64).mul s
  let q16 := q15.mul s
  let var1 := q16.shr 25
  let q17 := (Checked.lit c.p8 : Checked 64).mul p
  let var2 := q17.shr 19
  let q18 := p.add var1
  let q19 := q18.add var2
  let q20 := q19.shr 8
  let q21 := (Checked.lit c.p7 : Checked 64).shl 4
  q20.add q21

/-- The narrowing of the final `p` to u32, itself checked (42_compensation.md R180, R204). -/
def narrowPressure (p : Checked 64) : Checked 32 :=
  { val := p.val.setWidth 32, ovf := p.ovf || p.val.toInt < 0 || 2 ^ 32 ≤ p.val.toInt }

/-- What `pres_formula` yields: DIV0 with the overflow of the operations performed before the guard
(42_compensation.md R205), or the narrowed pressure (R204). -/
inductive PresResult where
  | div0 (ovf : Bool)
  | pressure (p : Checked 32)
  deriving DecidableEq, Repr

/-- `pres_formula` with its divide-by-zero guard, which tests the wrapped value (42_compensation.md R202 to R204). -/
@[irreducible] def presFormula (adcP : BitVec 20) (tFine : BitVec 32) (c : Coeffs) : PresResult :=
  let d := presDenominator tFine c
  if d.var1.val = 0#64 then .div0 (d.var1.ovf || d.var2.ovf)
  else .pressure (narrowPressure (presQuotient adcP d c))

/-- `hum_formula` before the clamp (42_compensation.md R216), W = 32. -/
@[irreducible] def humPolynomial (adcH : BitVec 16) (tFine : BitVec 32) (c : Coeffs) : Checked 32 :=
  let v := (Checked.lit tFine.toInt : Checked 32).sub (.lit 76800)
  let a1 := (Checked.lit adcH.toNat : Checked 32).shl 14
  let a2 := (Checked.lit c.h4 : Checked 32).shl 20
  let a3 := a1.sub a2
  let a4 := (Checked.lit c.h5 : Checked 32).mul v
  let a5 := a3.sub a4
  let a6 := a5.add (.lit 16384)
  let A := a6.shr 15
  let b1 := v.mul (.lit c.h6)
  let b2 := b1.shr 10
  let c1 := v.mul (.lit c.h3)
  let c2 := c1.shr 11
  let c3 := c2.add (.lit 32768)
  let d1 := b2.mul c3
  let d2 := d1.shr 10
  let d3 := d2.add (.lit 2097152)
  let e1 := d3.mul (.lit c.h2)
  let e2 := e1.add (.lit 8192)
  let E := e2.shr 14
  let v := A.mul E
  let s := v.shr 15
  let f1 := s.mul s
  let f2 := f1.shr 7
  let f3 := f2.mul (.lit c.h1)
  let f4 := f3.shr 4
  v.sub f4

/-- The saturation guard (42_compensation.md R217): exact, sets no flag. -/
def clampHumidity (v : Int) : Int := min (max v 0) Config.humidityCeiling

/-- `hum_formula` (42_compensation.md R216, R217): the clamped polynomial shifted right by 12, held as u32. -/
@[irreducible] def humFormula (adcH : BitVec 16) (tFine : BitVec 32) (c : Coeffs) : Checked 32 :=
  let v := humPolynomial adcH tFine c
  { val := BitVec.ofInt 32 (clampHumidity v.val.toInt / 2 ^ 12), ovf := v.ovf }

end Sys2Proof.Machine
end

