-- ==== Sys2Proof/WellFormed.lean ====
section
/-! DEFINITION. Which operand values are legal (30_encoding.md R103 to R105). -/

namespace Sys2Proof

/-- An oversampling code names one of skip, x1, x2, x4, x8, x16 (10_state.md R31). -/
def oversamplingOk (code : BitVec 3) : Bool := code.toNat ≤ 5

/-- A mode code names one of sleep, forced, normal: 10 is refused (10_state.md R32). -/
def modeOk (mode : BitVec 2) : Bool := mode != 0b10#2

/-- A filter code names one of off, 2, 4, 8, 16 (10_state.md R34). -/
def filterOk (code : BitVec 3) : Bool := code.toNat ≤ 4

/-- The ctrl_hum image: osrs_h legal, bits [7:3] zero (10_state.md R28). -/
def ctrlHumOk (hum : Byte) : Bool :=
  oversamplingOk (hum.extractLsb' 0 3) && hum.extractLsb' 3 5 == 0#5

/-- The ctrl_meas image: osrs_t, osrs_p and mode legal (10_state.md R29). -/
def ctrlMeasOk (meas : Byte) : Bool :=
  oversamplingOk (meas.extractLsb' 5 3) && oversamplingOk (meas.extractLsb' 2 3) && modeOk (meas.extractLsb' 0 2)

/-- The config image: filter legal, bit 1 zero, t_sb and interface-enable free (10_state.md R30). -/
def configOk (cfg : Byte) : Bool :=
  filterOk (cfg.extractLsb' 2 3) && !cfg.getLsbD 1

/-- `conf_ok` of 30_encoding.md R104 on the three control bytes. -/
def confOk (hum meas cfg : Byte) : Bool := ctrlHumOk hum && ctrlMeasOk meas && configOk cfg

/-- A command whose operands the command interface accepts (30_encoding.md R103): only CONFIGURE's and SETMODE's
are constrained. -/
def Instr.wellFormed : Instr → Bool
  | .init => true
  | .configure hum meas cfg => confOk hum meas cfg
  | .setmode mode => modeOk mode
  | .readraw => true
  | .compt _ => true
  | .compp _ => true
  | .comph => true
  | .readt _ => true
  | .readp _ => true
  | .readh => true
  | .readall _ _ => true

/-- `RESET_CTRL` must satisfy `conf_ok` (92_eei_decisions.md D34; 40_configurator.md R132). -/
def Config.Params.wellFormed (p : Config.Params) : Bool :=
  confOk (p.resetCtrl.extractLsb' 16 8) (p.resetCtrl.extractLsb' 8 8) (p.resetCtrl.extractLsb' 0 8)

end Sys2Proof
end

