-- ==== Sys2Proof/Decode.lean ====
section
/-! DEFINITION. Decoding a command word (30_encoding.md R90 to R105) and encoding a command (R107). -/

namespace Sys2Proof

/-- Why a command word is refused: each ends the command with IllegalCommand (30_encoding.md R100). -/
inductive Refused where
  /-- The opcode is 0x00 or 0x0C to 0xFF (R101). -/
  | reservedOpcode
  /-- A reserved operand bit of the format is 1 (R102). -/
  | reservedBit
  /-- CONFIGURE's operand fails `conf_ok` (R104), or SETMODE's mode is 10 (R105). -/
  | operandValue
  deriving DecidableEq, Repr

/-- The opcode field OPC (R90). -/
def opcodeOf (w : Word) : Byte := w.extractLsb' 24 8

/-- The operand bits the format of an opcode fixes at 0 (the table of R100). -/
def reservedMask (opc : Byte) : Option (BitVec 32) :=
  match opc.toNat with
  | 0x01 => some 0x00FFFFFF#32
  | 0x02 => some 0x00F80002#32
  | 0x03 => some 0x00FFFFFC#32
  | 0x04 => some 0x00FFFFFF#32
  | 0x05 => some 0x00FFFFFE#32
  | 0x06 => some 0x00FFFFF0#32
  | 0x07 => some 0x00FFFFFF#32
  | 0x08 => some 0x00FFFFFE#32
  | 0x09 => some 0x00FFFFF0#32
  | 0x0A => some 0x00FFFFFF#32
  | 0x0B => some 0x00FFFF0E#32
  | _ => none

/-- The unit named by the one-bit field TU (R97). -/
def tempUnitOf (b : Bool) : TempUnit := if b then .fahrenheit else .celsius

/-- The code of a temperature unit (R97). -/
def TempUnit.bit : TempUnit → BitVec 1
  | .celsius => 0#1
  | .fahrenheit => 1#1

/-- The command a word names once its opcode is known, its operand fields taken as R94 to R99 lay them out. -/
def fieldsOf (w : Word) : Option Instr :=
  match (opcodeOf w).toNat with
  | 0x01 => some .init
  | 0x02 => some (.configure (w.extractLsb' 16 8) (w.extractLsb' 8 8) (w.extractLsb' 0 8))
  | 0x03 => some (.setmode (w.extractLsb' 0 2))
  | 0x04 => some .readraw
  | 0x05 => some (.compt (tempUnitOf (w.getLsbD 0)))
  | 0x06 => some (.compp (w.extractLsb' 0 4))
  | 0x07 => some .comph
  | 0x08 => some (.readt (tempUnitOf (w.getLsbD 0)))
  | 0x09 => some (.readp (w.extractLsb' 0 4))
  | 0x0A => some .readh
  | 0x0B => some (.readall (tempUnitOf (w.getLsbD 0)) (w.extractLsb' 4 4))
  | _ => none

/-- Decode of an accepted command word, in the order of R100: opcode, reserved bits, operand values. -/
def decode (w : Word) : Except Refused Instr :=
  match reservedMask (opcodeOf w), fieldsOf w with
  | some mask, some i =>
    if w &&& mask ≠ 0#32 then .error .reservedBit
    else if i.wellFormed then .ok i
    else .error .operandValue
  | _, _ => .error .reservedOpcode

/-- The opcode of a command (the table of R92). -/
def Instr.opcode : Instr → Byte
  | .init => 0x01#8
  | .configure _ _ _ => 0x02#8
  | .setmode _ => 0x03#8
  | .readraw => 0x04#8
  | .compt _ => 0x05#8
  | .compp _ => 0x06#8
  | .comph => 0x07#8
  | .readt _ => 0x08#8
  | .readp _ => 0x09#8
  | .readh => 0x0A#8
  | .readall _ _ => 0x0B#8

/-- The 24 operand bits of a command (the formats of R94 to R99). -/
def Instr.operand : Instr → BitVec 24
  | .init => 0#24
  | .configure hum meas cfg => hum ++ meas ++ cfg
  | .setmode mode => 0#22 ++ mode
  | .readraw => 0#24
  | .compt tu => 0#23 ++ tu.bit
  | .compp pu => 0#20 ++ pu
  | .comph => 0#24
  | .readt tu => 0#23 ++ tu.bit
  | .readp pu => 0#20 ++ pu
  | .readh => 0#24
  | .readall tu pu => 0#16 ++ pu ++ 0#3 ++ tu.bit

/-- The command word of a command (R90, R107): OPC in [31:24], OPERAND in [23:0]. -/
def encode (i : Instr) : Word := i.opcode ++ i.operand

/-- The command that the decoder reads from a word given by its bits, bit 0 the least significant: a command is always
one 32-bit word (R106), whatever bits lie above `nbits` being 0. -/
def decodeTableWord (nbits w : Nat) : Option Instr :=
  if w % 2 ^ nbits < 2 ^ 32 then (decode (BitVec.ofNat 32 (w % 2 ^ nbits))).toOption else none

end Sys2Proof
end

