-- ==== Sys2Proof/Machine/Ops.lean ====
section
/-! DEFINITION. The operations every command shares: the sensor's register space (20_memory.md R68), a transaction's
answer (R67), staging and the commit (10_state.md R22, R41; 60_exceptions.md R262), the host register file
(10_state.md R23), the platform's reset (70_reset_and_hazards.md R290). The block has no traps (60_exceptions.md R264):
`State.commit`, which records the error code, is what stands in the place of taking an exception. -/

namespace Sys2Proof.Machine

/-! ## The sensor register space -/

/-- The canonical form: addresses strictly rising, each one byte of address. -/
abbrev Memory.wf (m : Memory) : Prop := m.Pairwise (fun a b => a.1 < b.1) ∧ ∀ c ∈ m, c.1 < 256

/-- What an address is taken to hold; `none` is unknown. -/
def Memory.read : Memory → Nat → Option Byte
  | [], _ => none
  | (b, v) :: m, a => if a = b then some v else Memory.read m a

/-- The address now holds `v`. -/
def Memory.write : Memory → Nat → Byte → Memory
  | [], a, v => [(a, v)]
  | (b, w) :: m, a, v =>
    if a < b then (a, v) :: (b, w) :: m
    else if a = b then (a, v) :: m
    else (b, w) :: Memory.write m a v

/-- What the address holds is no longer known. -/
def Memory.forget : Memory → Nat → Memory
  | [], _ => []
  | (b, w) :: m, a => if a = b then m else (b, w) :: Memory.forget m a

/-! ## The transport -/

/-- What an answer means for the transaction it answers: `none` is `fail`. A read succeeds only with exactly its `n`
bytes (20_memory.md R67); a write has no bytes (R68). -/
def Txn.outcome : Txn → Bool → List Byte → Option (List Byte)
  | .read _ n, success, bytes => if success && bytes.length == n then some bytes else none
  | .write _ _, success, _ => if success then some [] else none

/-- What the sensor's registers are taken to hold once a transaction has ended (20_memory.md R68): an acknowledged write
holds, a failed one leaves its address unknown, a read changes nothing the block relies on (R72). -/
def Txn.effect : Txn → Option (List Byte) → Memory → Memory
  | .read _ _, _, m => m
  | .write a v, some _, m => m.write a.toNat v
  | .write a _, none, m => m.forget a.toNat

/-! ## Staging, issuing and the commit -/

/-- What a command's pseudocode does next: issue a transaction and wait, or `finish(code)` (00_scope.md R12). -/
inductive Move where
  | issue (txn : Txn) (run : Run)
  | finish (code : ErrorCode) (run : Run)
  deriving DecidableEq, Repr

/-- RUN at the acceptance of a command: index 0, nothing read, the staged copy taken with AOVF cleared
(10_state.md R24, R42). -/
def Run.start (c : Command) (S : Regs) : Run :=
  { command := c, index := 0, staged := { S with aovf := false }, got := 0, buf := Vector.replicate 32 none }

/-- The transaction has been answered: the index advances by one (10_state.md R42). -/
def Run.answered (r : Run) : Run := { r with index := r.index + 1 }

/-- The run with its staged copy replaced. -/
def Run.stage (r : Run) (S : Regs) : Run := { r with staged := S }

/-- `finish(code)` with the staged copy replaced first. -/
def Move.finishWith (code : ErrorCode) (r : Run) (S : Regs) : Move := .finish code (r.stage S)

/-- The sequencer takes up a move: a transaction goes out on the port, or the command has reached its `finish`. -/
def State.take (s : State) : Move → State
  | .issue txn run => { s with phase := .waiting run txn, bus := txn :: s.bus }
  | .finish code run => { s with phase := .finishing run code }

/-- What `finish(code)` writes into the staged copy before it commits (60_exceptions.md R262). -/
def Regs.finished (S : Regs) (code : ErrorCode) : Regs :=
  { S with err := code, aovfAny := S.aovfAny || S.aovf }

/-- The commit (10_state.md R22, 60_exceptions.md R262): `S <- S'` but for `ovr`, and the sequencer goes IDLE. -/
def State.commit (s : State) (run : Run) (code : ErrorCode) : State :=
  { s with regs := run.staged.finished code, phase := .idle }

/-- A CMD write while busy: discarded and recorded (10_state.md R24). -/
def State.setOvr (s : State) : State := { s with ovr := true }

/-! ## The configuration shadow -/

/-- The mode field of the shadow (10_state.md R29). -/
def Regs.mode (S : Regs) : BitVec 2 := S.ctrlMeas.extractLsb' 0 2

/-- `setmode_value` (40_configurator.md R133, 41_sampler.md R160). -/
def setmodeValue (p : Config.Params) (x : Byte) (mode : BitVec 2) : Byte :=
  if p.setmodeClearsMode then (x &&& 0xFC#8) ||| mode.zeroExtend 8 else x ||| mode.zeroExtend 8

/-- The three control-byte writes, in order (40_configurator.md R122). -/
def Regs.controlWrite (S : Regs) : Nat → Option Txn
  | 0 => some (.write Config.ctrlHumAddr S.ctrlHum)
  | 1 => some (.write Config.ctrlMeasAddr S.ctrlMeas)
  | 2 => some (.write Config.configAddr S.config)
  | _ => none

/-! ## The host's side -/

/-- Byte `i` of the calibration table, 0 beyond it. -/
def Regs.calByte (S : Regs) (i : Nat) : Byte := S.cal[i]?.getD 0#8

/-- CALk: the lower-numbered byte in the less significant bits (10_state.md R23, 20_memory.md R63). -/
def Regs.calWord (S : Regs) (k : Nat) : Word :=
  S.calByte (4 * k + 3) ++ S.calByte (4 * k + 2) ++ S.calByte (4 * k + 1) ++ S.calByte (4 * k)

/-- CTRL (10_state.md R23). -/
def Regs.ctrlWord (S : Regs) : Word := 0#8 ++ S.ctrlHum ++ S.ctrlMeas ++ S.config

/-- What a host read of an index returns (10_state.md R23): the committed state, with BUSY and OVR live (R22). -/
def State.hostRegister (s : State) (index : BitVec 8) : Word :=
  match index.toNat with
  | 0x00 => 0#32
  | 0x01 => s.statusWord
  | 0x02 => s.regs.chipId.zeroExtend 32
  | 0x03 => s.regs.ctrlWord
  | 0x04 => s.regs.calWord 0
  | 0x05 => s.regs.calWord 1
  | 0x06 => s.regs.calWord 2
  | 0x07 => s.regs.calWord 3
  | 0x08 => s.regs.calWord 4
  | 0x09 => s.regs.calWord 5
  | 0x0A => s.regs.calWord 6
  | 0x0B => s.regs.calWord 7
  | 0x0C => s.regs.adcP.zeroExtend 32
  | 0x0D => s.regs.adcT.zeroExtend 32
  | 0x0E => s.regs.adcH.zeroExtend 32
  | 0x0F => s.regs.sampleSeq
  | 0x10 => s.regs.tFine
  | 0x11 => s.regs.tOut
  | 0x12 => s.regs.pOut
  | 0x13 => s.regs.hOut
  | 0x14 => s.regs.flagsWord
  | _ => 0#32

/-- A host read: it returns the register and has no side effect on the block (10_state.md R23). -/
def State.hostRead (s : State) (index : BitVec 8) : State :=
  { s with reads := (index, s.hostRegister index) :: s.reads }

/-- The platform's reset (70_reset_and_hazards.md R290, R292, R293): every element of `S` at its reset value, the running
command abandoned, and a write then outstanding may or may not have happened. The sensor is not reset. -/
def State.platformReset (s : State) : State :=
  { s with
    regs := Regs.reset s.params
    ovr := false
    phase := .idle
    sensor :=
      match s.phase with
      | .waiting _ txn => txn.effect none s.sensor
      | .finishing _ _ => s.sensor
      | .idle => s.sensor }

end Sys2Proof.Machine
end

