-- ==== Sys2Proof/Machine/Compensation.lean ====
section
/-! DEFINITION. The compensation steps and commands COMPT, COMPP, COMPH (42_compensation.md R185 to R218,
43_orchestration.md R242). -/

namespace Sys2Proof.Machine

/-- The overflow of a step's operations joins the command's AOVF (42_compensation.md R180). -/
def Regs.addOvf (S : Regs) (ovf : Bool) : Regs := { S with aovf := S.aovf || ovf }

/-- `T_STEP(tu)` (43_orchestration.md R242, 42_compensation.md R190): TUNIT is written only when `tu` is given. -/
def tempStep (tu : Option TempUnit) (S : Regs) : Regs :=
  let t := tempFormula S.adcT (coeffs S.cal)
  { S.addOvf t.tOut.ovf with
    tFine := t.tFine.val, tOut := t.tOut.val, tfineValid := true, tValid := true, tunit := tu.getD S.tunit }

/-- What a pressure step ends with: the registers, and OK or DivideByZero. -/
structure PresStep where
  regs : Regs
  code : ErrorCode
  deriving DecidableEq, Repr

/-- `P_STEP(pu)` (43_orchestration.md R242, 42_compensation.md R200 to R205). -/
def presStep (pu : BitVec 4) (S : Regs) : PresStep :=
  match presFormula S.adcP S.tFine (coeffs S.cal) with
  | .div0 ovf => { regs := { S.addOvf ovf with punit := pu, pValid := false }, code := .divideByZero }
  | .pressure p => { regs := { S.addOvf p.ovf with punit := pu, pOut := p.val, pValid := true }, code := .ok }

/-- `H_STEP` (43_orchestration.md R242, 42_compensation.md R215). -/
def humStep (S : Regs) : Regs :=
  let h := humFormula S.adcH S.tFine (coeffs S.cal)
  { S.addOvf h.ovf with hOut := h.val, hValid := true }

/-- The sequential dependency enforcer (42_compensation.md R185): the code a failing check reports. `needsTfine` is the
third check, of COMPP and COMPH. -/
def dependencyCheck (needsTfine : Bool) (S : Regs) : Option ErrorCode :=
  if !S.ready then some .notInitialized
  else if !S.rawValid then some .dependencyViolation
  else if needsTfine && !S.tfineValid then some .dependencyViolation
  else none

/-- COMPT (42_compensation.md R185, R190). -/
def comptBegin (tu : TempUnit) (r : Run) : Move :=
  match dependencyCheck false r.staged with
  | some code => .finishWith code r { r.staged with tValid := false }
  | none => .finishWith .ok r (tempStep (some tu) r.staged)

/-- COMPP (42_compensation.md R185, R200, R201). -/
def comppBegin (pu : BitVec 4) (r : Run) : Move :=
  match dependencyCheck true r.staged with
  | some code => .finishWith code r { r.staged with pValid := false }
  | none => .finishWith (presStep pu r.staged).code r (presStep pu r.staged).regs

/-- COMPH (42_compensation.md R185, R215). -/
def comphBegin (r : Run) : Move :=
  match dependencyCheck true r.staged with
  | some code => .finishWith code r { r.staged with hValid := false }
  | none => .finishWith .ok r (humStep r.staged)

end Sys2Proof.Machine
end

