-- ==== Sys2Proof/Machine/Configurator.lean ====
section
/-! DEFINITION. The sequences of the chip configurator: INIT, CONFIGURE and SETMODE (40_configurator.md). A sequence has
a beginning, evaluated when the command is accepted, and a continuation, evaluated on each transaction's answer; in the
continuation `run.index` already counts the answered transaction. -/

namespace Sys2Proof.Machine

/-! ## INIT -/

/-- INIT's fixed sequence of transactions, by index: identity, three control writes, four calibration reads
(40_configurator.md R120). -/
def initTxn (S : Regs) : Nat → Option Txn
  | 0 => some (.read Config.identityAddr 1)
  | 1 => S.controlWrite 0
  | 2 => S.controlWrite 1
  | 3 => S.controlWrite 2
  | 4 => some (.read Config.calTempAddr 6)
  | 5 => some (.read Config.calPresAddr 18)
  | 6 => some (.read Config.calHum1Addr 1)
  | 7 => some (.read Config.calHum2Addr 7)
  | _ => none

/-- Where the bytes of the sub-read with a given transaction index land in `buf` (40_configurator.md R123). -/
def calOffset : Nat → Nat
  | 4 => 0
  | 5 => 6
  | 6 => 24
  | 7 => 25
  | _ => 32

/-- `buf[off .. off+n-1] <- b` (40_configurator.md R120). -/
def storeBytes (buf : Vector (Option Byte) 32) (off : Nat) (b : List Byte) : Vector (Option Byte) 32 :=
  Vector.ofFn fun i => if off ≤ i.val then (b[i.val - off]?).or buf[i] else buf[i]

/-- `S.cal[0..31] <- buf[0..31]`; a byte still undefined replaces nothing (40_configurator.md R124). -/
def loadCal (cal : Vector Byte 32) (buf : Vector (Option Byte) 32) : Vector Byte 32 :=
  Vector.ofFn fun i => buf[i].getD cal[i]

/-- INIT's end, all four sub-reads attempted (40_configurator.md R123, R124). -/
def initEnd (r : Run) : Move :=
  if r.got = 32 then .finishWith .ok r { r.staged with cal := loadCal r.staged.cal r.buf, ready := true }
  else .finish .calibrationReadIncomplete r

/-- INIT goes on to its next transaction, or to its end when none is left. -/
def initNext (r : Run) : Move :=
  match initTxn r.staged r.index with
  | some txn => .issue txn r
  | none => initEnd r

/-- The identity step (40_configurator.md R121). -/
def initIdentity (r : Run) : Option (List Byte) → Move
  | some (b :: _) =>
    let r := r.stage { r.staged with chipId := b }
    if Config.acceptedIdentity b then initNext r else .finish .identityMismatch r
  | some [] => .finish .transportReadError r
  | none => .finish .transportReadError r

/-- A control write has been answered: the first failure ends the command (40_configurator.md R122, R129). -/
def controlWritten (next : Run → Move) (r : Run) : Option (List Byte) → Move
  | some _ => next r
  | none => .finish .transportWriteError r

/-- A calibration sub-read has been answered: the block goes on whatever the answer (40_configurator.md R123). -/
def initSubRead (r : Run) : Option (List Byte) → Move
  | some b => initNext { r with buf := storeBytes r.buf (calOffset (r.index - 1)) b, got := r.got + b.length }
  | none => initNext r

/-- INIT at its acceptance: a no-op once ready (40_configurator.md R125). -/
def initBegin (r : Run) : Move :=
  if r.staged.ready then .finish .ok r else initNext r

/-- INIT on the answer of the transaction before `r.index`. -/
def initResume (r : Run) (answer : Option (List Byte)) : Move :=
  if r.index ≤ 1 then initIdentity r answer
  else if r.index ≤ 4 then controlWritten initNext r answer
  else initSubRead r answer

/-! ## CONFIGURE -/

/-- CONFIGURE goes on to its next control write, or finishes when none is left (40_configurator.md R128). -/
def configureNext (r : Run) : Move :=
  match r.staged.controlWrite r.index with
  | some txn => .issue txn r
  | none => .finish .ok r

/-- CONFIGURE at its acceptance: the shadow takes the new bytes before the writes (40_configurator.md R128, R129). -/
def configureBegin (hum meas cfg : Byte) (r : Run) : Move :=
  configureNext (r.stage { r.staged with ctrlHum := hum, ctrlMeas := meas, config := cfg })

/-- CONFIGURE on a write's answer. -/
def configureResume (r : Run) (answer : Option (List Byte)) : Move := controlWritten configureNext r answer

/-! ## SETMODE -/

/-- SETMODE at its acceptance: the shadow's new ctrl_meas, and its one write (40_configurator.md R133). -/
def setmodeBegin (p : Config.Params) (mode : BitVec 2) (r : Run) : Move :=
  let meas := setmodeValue p r.staged.ctrlMeas mode
  .issue (.write Config.ctrlMeasAddr meas) (r.stage { r.staged with ctrlMeas := meas })

/-- SETMODE on its write's answer. -/
def setmodeResume (r : Run) (answer : Option (List Byte)) : Move := controlWritten (.finish .ok) r answer

end Sys2Proof.Machine
end

