-- ==== Sys2Proof/Machine/Sampler.lean ====
section
/-! DEFINITION. The sample sequencer (41_sampler.md R160 to R165): `acquire()`, with which READRAW and the orchestration
commands begin. What follows a successful acquisition is the argument `after`. -/

namespace Sys2Proof.Machine

/-- The first two lines of `acquire()`: every dependant of the old sample is invalid (41_sampler.md R160, R164). -/
def Regs.clearSample (S : Regs) : Regs :=
  { S with rawValid := false, tfineValid := false, tValid := false, pValid := false, hValid := false }

/-- Forced mode, the one in which the block re-arms (41_sampler.md R161). -/
def Regs.forced (S : Regs) : Bool := S.mode == 0b01#2

/-- The burst read (41_sampler.md R162). -/
def burstTxn : Txn := .read Config.dataAddr 8

/-- `acquire()` up to its first transaction (41_sampler.md R160). -/
def acquireBegin (p : Config.Params) (r : Run) : Move :=
  let S := r.staged.clearSample
  if S.ready then
    if S.forced then
      let meas := setmodeValue p S.ctrlMeas 0b01#2
      .issue (.write Config.ctrlMeasAddr meas) (r.stage { S with ctrlMeas := meas })
    else .issue burstTxn (r.stage S)
  else .finishWith .notInitialized r S

/-- The raw values and SAMPLE_SEQ after a successful burst (41_sampler.md R162, R163). -/
def Regs.takeSample (S : Regs) (b0 b1 b2 b3 b4 b5 b6 b7 : Byte) : Regs :=
  { S with adcP := raw20 b0 b1 b2, adcT := raw20 b3 b4 b5, adcH := raw16 b6 b7,
           sampleSeq := S.sampleSeq + 1#32, rawValid := true }

/-- The burst has been answered (41_sampler.md R162 to R164). -/
def burstAnswered (after : Run → Move) (r : Run) : Option (List Byte) → Move
  | some [b0, b1, b2, b3, b4, b5, b6, b7] => after (r.stage (r.staged.takeSample b0 b1 b2 b3 b4 b5 b6 b7))
  | _ => .finish .transportReadError r

/-- `acquire()` on the answer of transaction `txn`: after the re-arm write the burst read goes out at once, with no wait
(41_sampler.md R161, R162; 70_reset_and_hazards.md R301). -/
def acquireResume (after : Run → Move) (txn : Txn) (r : Run) (answer : Option (List Byte)) : Move :=
  match txn with
  | .write _ _ => controlWritten (.issue burstTxn) r answer
  | .read _ _ => burstAnswered after r answer

/-- READRAW's end (41_sampler.md R160). -/
def readrawAfter (r : Run) : Move := .finish .ok r

end Sys2Proof.Machine
end

