-- ==== Sys2Proof/Machine/Orchestration.lean ====
section
/-! DEFINITION. What the orchestration commands do once their sample is acquired (43_orchestration.md R243 to R251). -/

namespace Sys2Proof.Machine

/-- READT: T_STEP(TU) (43_orchestration.md R243). -/
def readtAfter (tu : TempUnit) (r : Run) : Move := .finishWith .ok r (tempStep (some tu) r.staged)

/-- READP: T_STEP without a unit, then P_STEP(PU) (43_orchestration.md R245). -/
def readpAfter (pu : BitVec 4) (r : Run) : Move :=
  let P := presStep pu (tempStep none r.staged)
  .finishWith P.code r P.regs

/-- READH: T_STEP without a unit, then H_STEP (43_orchestration.md R247). -/
def readhAfter (r : Run) : Move := .finishWith .ok r (humStep (tempStep none r.staged))

/-- READALL: T_STEP(TU), P_STEP(PU), H_STEP, the pressure guard's code kept to the end (43_orchestration.md R249, R250). -/
def readallAfter (tu : TempUnit) (pu : BitVec 4) (r : Run) : Move :=
  let P := presStep pu (tempStep (some tu) r.staged)
  .finishWith P.code r (humStep P.regs)

end Sys2Proof.Machine
end

