-- ==== Sys2Proof/Machine/Sequencer.lean ====
section
/-! DEFINITION. The sequencer (10_state.md R42): acceptance of a command (R24), one step of the block at the grain of
70_reset_and_hazards.md R306, and the block's advance until it is idle or must let the host move. -/

namespace Sys2Proof.Machine

/-- The continuation of the running command on the answer of its transaction `txn`. A refused word issues no
transaction, and COMPT, COMPP and COMPH issue none: an answer cannot reach them. -/
def Run.resume (r : Run) (txn : Txn) (answer : Option (List Byte)) : Move :=
  match r.command with
  | .illegal _ => .finish .illegalCommand r
  | .legal .init => initResume r answer
  | .legal (.configure _ _ _) => configureResume r answer
  | .legal (.setmode _) => setmodeResume r answer
  | .legal .readraw => acquireResume readrawAfter txn r answer
  | .legal (.compt tu) => comptBegin tu r
  | .legal (.compp pu) => comppBegin pu r
  | .legal .comph => comphBegin r
  | .legal (.readt tu) => acquireResume (readtAfter tu) txn r answer
  | .legal (.readp pu) => acquireResume (readpAfter pu) txn r answer
  | .legal .readh => acquireResume readhAfter txn r answer
  | .legal (.readall tu pu) => acquireResume (readallAfter tu pu) txn r answer

/-- The transport answers the outstanding transaction: its effect on the sensor, the index advanced, and the running
command's continuation (20_memory.md R67 to R69; 10_state.md R42). -/
def State.answered (s : State) (run : Run) (txn : Txn) (success : Bool) (bytes : List Byte) : State :=
  let answer := txn.outcome success bytes
  { s with sensor := txn.effect answer s.sensor }.take (run.answered.resume txn answer)

/-- Whether the block has a step to make: a transaction's answer has come, or a commit is due, and the oracle does not
give the host the turn. -/
def State.canMove (s : State) : Bool :=
  match s.phase, s.oracle with
  | .idle, _ => false
  | .waiting _ _, .answer _ _ :: _ => true
  | .waiting _ _, _ => false
  | .finishing _ _, .wait :: _ => false
  | .finishing _ _, _ => true

/-- One step of the BLOCK agent (70_reset_and_hazards.md R306): one transaction answered, or the commit. -/
def State.blockStep (s : State) : State :=
  match s.phase, s.oracle with
  | .idle, _ => s
  | .waiting run txn, .answer success bytes :: rest => { s with oracle := rest }.answered run txn success bytes
  | .waiting _ _, _ => s
  | .finishing run code, _ => s.commit run code

/-- At most `n` steps of the block, while it can move. -/
def State.advance : Nat → State → State
  | 0, s => s
  | n + 1, s => if s.canMove then State.advance n s.blockStep else s

/-- The block moves until it is idle or must let the host move: every transaction takes one answer of the oracle, and
the commit is one step more. -/
def State.settle (s : State) : State := s.advance (s.oracle.length + 1)

/-- A write of a command word to CMD (10_state.md R24): while busy it sets OVR and is discarded; else the staged copy is
taken, the command begins, and the block moves as far as it can. -/
def State.accept (s : State) (c : Command) (begin : Run → Move) : State :=
  if s.busy then s.setOvr else (s.take (begin (Run.start c s.regs))).settle

/-- A word that decoding refuses: it makes no transaction and finishes with IllegalCommand (30_encoding.md R100). -/
def State.refuseWord (s : State) (w : Word) : State := s.accept (.illegal w) (.finish .illegalCommand)

end Sys2Proof.Machine
end

