-- ==== Sys2Proof/Machine/Commands.lean ====
section
/-! DEFINITION. The meaning of each of the eleven commands: what a write of its word to CMD does. Each is accepted by the
one rule of 10_state.md R24, and runs its own sequence. -/

namespace Sys2Proof.Machine

/-- INIT (40_configurator.md R120 to R126). -/
def execInit (s : State) : Host.Outcome State Fault Refusal :=
  .next (s.accept (.legal .init) initBegin)

/-- CONFIGURE (40_configurator.md R128 to R130). -/
def execConfigure (hum meas cfg : Byte) (s : State) : Host.Outcome State Fault Refusal :=
  .next (s.accept (.legal (.configure hum meas cfg)) (configureBegin hum meas cfg))

/-- SETMODE (40_configurator.md R133, R134). -/
def execSetmode (mode : BitVec 2) (s : State) : Host.Outcome State Fault Refusal :=
  .next (s.accept (.legal (.setmode mode)) (setmodeBegin s.params mode))

/-- READRAW (41_sampler.md R160 to R165). -/
def execReadraw (s : State) : Host.Outcome State Fault Refusal :=
  .next (s.accept (.legal .readraw) (acquireBegin s.params))

/-- COMPT (42_compensation.md R190 to R193). -/
def execCompt (tu : TempUnit) (s : State) : Host.Outcome State Fault Refusal :=
  .next (s.accept (.legal (.compt tu)) (comptBegin tu))

/-- COMPP (42_compensation.md R200 to R206). -/
def execCompp (pu : BitVec 4) (s : State) : Host.Outcome State Fault Refusal :=
  .next (s.accept (.legal (.compp pu)) (comppBegin pu))

/-- COMPH (42_compensation.md R215 to R218). -/
def execComph (s : State) : Host.Outcome State Fault Refusal :=
  .next (s.accept (.legal .comph) comphBegin)

/-- READT (43_orchestration.md R243, R244). -/
def execReadt (tu : TempUnit) (s : State) : Host.Outcome State Fault Refusal :=
  .next (s.accept (.legal (.readt tu)) (acquireBegin s.params))

/-- READP (43_orchestration.md R245, R246). -/
def execReadp (pu : BitVec 4) (s : State) : Host.Outcome State Fault Refusal :=
  .next (s.accept (.legal (.readp pu)) (acquireBegin s.params))

/-- READH (43_orchestration.md R247, R248). -/
def execReadh (s : State) : Host.Outcome State Fault Refusal :=
  .next (s.accept (.legal .readh) (acquireBegin s.params))

/-- READALL (43_orchestration.md R249 to R251). -/
def execReadall (tu : TempUnit) (pu : BitVec 4) (s : State) : Host.Outcome State Fault Refusal :=
  .next (s.accept (.legal (.readall tu pu)) (acquireBegin s.params))

end Sys2Proof.Machine
end

