-- ==== Sys2Proof/Machine/Dispatch.lean ====
section
/-! DEFINITION. exec: one arm per command, each one direct call of its meaning. -/

namespace Sys2Proof.Machine

def exec (i : Instr) (s : State) : Host.Outcome State Fault Refusal :=
  match i with
  | .init => Sys2Proof.Machine.execInit s
  | .configure hum meas cfg => Sys2Proof.Machine.execConfigure hum meas cfg s
  | .setmode mode => Sys2Proof.Machine.execSetmode mode s
  | .readraw => Sys2Proof.Machine.execReadraw s
  | .compt tu => Sys2Proof.Machine.execCompt tu s
  | .compp pu => Sys2Proof.Machine.execCompp pu s
  | .comph => Sys2Proof.Machine.execComph s
  | .readt tu => Sys2Proof.Machine.execReadt tu s
  | .readp pu => Sys2Proof.Machine.execReadp pu s
  | .readh => Sys2Proof.Machine.execReadh s
  | .readall tu pu => Sys2Proof.Machine.execReadall tu pu s

end Sys2Proof.Machine
end

