-- ==== Sys2Proof/Machine/Environment.lean ====
section
/-! DEFINITION. Whose turn it is, and what a turn other than a CMD write does (log 1). The command word of a CMD write is
this machine's counterpart of an instruction fetched. -/

namespace Sys2Proof.Machine

/-- The host moves when the block cannot: idle, waiting with no answer left, or at a `wait` entry. -/
def State.hostTurn (s : State) : Bool := !s.canMove

/-- The host takes its turn: while a command runs, a `wait` entry at the oracle's head is used up. -/
def State.endWait (s : State) : State :=
  if s.busy then
    match s.oracle with
    | .wait :: rest => { s with oracle := rest }
    | _ => s
  else s

/-- What the next step has before it: a command word written to CMD, in the state it is written in, or a move that is
complete. -/
inductive Turn where
  | command (w : Word) (s : State)
  | moved (s : State)
  deriving DecidableEq, Repr

/-- One entry of the host's accesses or the platform's reset. A write to any index but CMD's has no effect
(10_state.md R23). -/
def State.hostTurnOf (s : State) : Input → Turn
  | .write index w => if index = 0#8 then .command w s else .moved s
  | .read index => .moved (s.hostRead index)
  | .reset => .moved s.platformReset

/-- The next turn. The block goes first when it can move; else the host takes its next access, if it has one, and with
none left nothing happens: an idle block waits for a command, a busy one for an answer (70_reset_and_hazards.md R304). -/
def State.nextTurn (s : State) : Turn :=
  if s.hostTurn then
    match s.inputs with
    | [] => .moved s.endWait
    | i :: rest => { s.endWait with inputs := rest }.hostTurnOf i
  else .moved s.settle

/-- Whether the access is a write to CMD. -/
def Input.isCommand : Input → Bool
  | .write index _ => index == 0#8
  | .read _ => false
  | .reset => false

/-- The end of a run (70_reset_and_hazards.md R307): the host, its last command written, is about to read STATUS, and
BUSY is 0. -/
def State.endsRun (s : State) : Bool :=
  match s.inputs with
  | .read index :: rest => index == 0x01#8 && s.hostTurn && !s.busy && !rest.any Input.isCommand
  | _ => false

/-- What a run that ends here is observed to give: the host register file (R307). -/
def State.observed (s : State) : List Word := (List.range 256).map fun index => s.hostRegister (.ofNat 8 index)

/-- The word placed as the host's next CMD write, the block idle to accept it (log 2). -/
def State.withCommandWord (s : State) (w : Word) : State :=
  { s with phase := .idle, inputs := .write 0#8 w :: s.inputs }

end Sys2Proof.Machine
end

