-- ==== Sys2Proof/Machine/Step.lean ====
section
/-! DEFINITION. One step of the machine: the next turn, and for a command word its decoding and its meaning. -/

namespace Sys2Proof.Machine

/-- A command word written to CMD: decoded once (30_encoding.md R100), then run, or refused with IllegalCommand. -/
def runWord (w : Word) (s : State) : Host.Outcome State Fault Refusal :=
  match decode w with
  | .ok i => exec i s
  | .error _ => .next (s.refuseWord w)

/-- One step. -/
def step (s : State) : Host.Outcome State Fault Refusal :=
  match s.nextTurn with
  | .command w t => runWord w t
  | .moved t => .next t

/-- `s` with the command word of bits `w` as the host's next CMD write, the block idle to accept it (log 2). -/
def State.withFetchWord (s : State) (nbits w : Nat) : State :=
  s.withCommandWord (BitVec.ofNat 32 (w % 2 ^ nbits))

end Sys2Proof.Machine
end

