-- ==== Sys2Proof/Machine/Assembler.lean ====
section
/-! DEFINITION. The assembly syntax of 30_encoding.md R107 and the pseudo-commands of R108. It is host software: no step of
the machine uses it. Text is a list of characters; log 14 names what the rule leaves open of its lexical form. -/

namespace Sys2Proof.Machine

/-- A line of assembly text. -/
abbrev Text := List Char

/-- What a line holds. -/
inductive Line where
  | empty
  | command (i : Instr)
  | malformed
  deriving DecidableEq, Repr

/-- A character that separates words. -/
def isBlank (c : Char) : Bool := c == ' ' || c == '\t'

/-- The text without blanks at its two ends. -/
def trimText (t : Text) : Text := ((t.dropWhile isBlank).reverse.dropWhile isBlank).reverse

/-- The pieces of a text between separators, blanks trimmed. -/
def splitText (sep : Char) : Text → List Text
  | [] => [[]]
  | c :: t =>
    match splitText sep t with
    | [] => [[c]]
    | piece :: rest => if c = sep then [] :: piece :: rest else (c :: piece) :: rest

/-- The value of a digit. -/
def digitValue (c : Char) : Option Nat :=
  let n := c.toNat
  if 48 ≤ n ∧ n ≤ 57 then some (n - 48)
  else if 65 ≤ n ∧ n ≤ 70 then some (n - 55)
  else if 97 ≤ n ∧ n ≤ 102 then some (n - 87)
  else none

/-- The digits of a number in a base. -/
def digitsFrom (base acc : Nat) : Text → Option Nat
  | [] => some acc
  | c :: t =>
    match digitValue c with
    | some d => if d < base then digitsFrom base (base * acc + d) t else none
    | none => none

/-- A number: `0x` and hexadecimal digits, or decimal digits. -/
def numberOf : Text → Option Nat
  | [] => none
  | '0' :: 'x' :: [] => none
  | '0' :: 'x' :: t => digitsFrom 16 0 t
  | t => digitsFrom 10 0 t

/-- A number below `2^w`. -/
def codeOf (w : Nat) (t : Text) : Option (BitVec w) :=
  match numberOf t with
  | some n => if n < 2 ^ w then some (BitVec.ofNat w n) else none
  | none => none

/-- The value a table gives a name. -/
def named {α : Type} (table : List (String × α)) (t : Text) : Option α :=
  (table.find? fun row => row.1.toList == t).map Prod.snd

/-- `sleep`, `forced`, `normal` (R107). -/
def modeNames : List (String × BitVec 2) := [("sleep", 0#2), ("forced", 1#2), ("normal", 3#2)]

/-- `C`, `F` (R107). -/
def tempUnitNames : List (String × TempUnit) := [("C", .celsius), ("F", .fahrenheit)]

/-- The pressure unit names (R107). -/
def pressureUnitNames : List (String × BitVec 4) :=
  [("Pa", 0#4), ("hPa", 1#4), ("inHg", 2#4), ("atm", 3#4), ("bar", 4#4), ("torr", 5#4), ("Nm2", 6#4), ("psi", 7#4)]

/-- The oversampling names of SETUP (R108). -/
def oversamplingNames : List (String × BitVec 3) :=
  [("skip", 0#3), ("x1", 1#3), ("x2", 2#3), ("x4", 3#3), ("x8", 4#3), ("x16", 5#3)]

/-- The filter names of SETUP (R108). -/
def filterNames : List (String × BitVec 3) := [("off", 0#3), ("2", 1#3), ("4", 2#3), ("8", 3#3), ("16", 4#3)]

/-- A pressure unit: a name, or a number 0 to 15 (R107). -/
def pressureUnitOf (t : Text) : Option (BitVec 4) := (named pressureUnitNames t).or (codeOf 4 t)

/-- SETUP's fields (R108). -/
structure Setup where
  t : BitVec 3
  p : BitVec 3
  h : BitVec 3
  mode : BitVec 2
  sb : BitVec 3
  filter : BitVec 3
  ife : BitVec 1
  deriving DecidableEq, Repr

/-- The fields of a shadow value, which an omitted field takes (R108, 10_state.md R27). -/
def Setup.ofCtrl (ctrl : BitVec 24) : Setup :=
  { h := ctrl.extractLsb' 16 3, t := ctrl.extractLsb' 13 3, p := ctrl.extractLsb' 10 3, mode := ctrl.extractLsb' 8 2,
    sb := ctrl.extractLsb' 5 3, filter := ctrl.extractLsb' 2 3, ife := ctrl.extractLsb' 0 1 }

/-- The CONFIGURE that SETUP expands to (R108). -/
def Setup.expand (f : Setup) : Instr :=
  .configure (0#5 ++ f.h) (f.t ++ f.p ++ f.mode) (f.sb ++ f.filter ++ 0#1 ++ f.ife)

/-- The command that TRIGGER expands to (R108). -/
def trigger : Instr := .setmode 1#2

/-- One `key=value` field of SETUP. -/
def Setup.field (f : Setup) (field : Text) : Option Setup :=
  match splitText '=' field with
  | [key, value] =>
    match String.ofList (trimText key) with
    | "t" => (named oversamplingNames (trimText value)).map fun v => { f with t := v }
    | "p" => (named oversamplingNames (trimText value)).map fun v => { f with p := v }
    | "h" => (named oversamplingNames (trimText value)).map fun v => { f with h := v }
    | "mode" => (named modeNames (trimText value)).map fun v => { f with mode := v }
    | "sb" => (codeOf 3 (trimText value)).map fun v => { f with sb := v }
    | "filter" => (named filterNames (trimText value)).map fun v => { f with filter := v }
    | "if" => (codeOf 1 (trimText value)).map fun v => { f with ife := v }
    | _ => none
  | _ => none

/-- SETUP's fields, in turn. DESIGN CHOICE (log 14): they may stand in any order, which R108 leaves open, and of two
assignments of one field the later wins. -/
def Setup.fields : Setup → List Text → Option Setup
  | f, [] => some f
  | f, t :: ts =>
    match f.field t with
    | some g => Setup.fields g ts
    | none => none

/-- The command of a mnemonic and its operands (R107, R108); an omitted `tu` is C and an omitted `pu` is Pa. DESIGN CHOICE
(log 14): an operand is omitted together with its comma, so an empty place beside a comma is refused, and READALL's single
operand is a temperature unit if it can be one. R107 says only 'omitted'. -/
def assembleCommand (ctrl : BitVec 24) (mnemonic : String) (operands : List Text) : Option Instr :=
  match mnemonic, operands with
  | "INIT", [] => some .init
  | "CONFIGURE", [hum, meas, cfg] =>
    match codeOf 8 hum, codeOf 8 meas, codeOf 8 cfg with
    | some h, some m, some c => some (.configure h m c)
    | _, _, _ => none
  | "SETMODE", [mode] => (named modeNames mode).map .setmode
  | "READRAW", [] => some .readraw
  | "COMPT", [] => some (.compt .celsius)
  | "COMPT", [tu] => (named tempUnitNames tu).map .compt
  | "COMPP", [] => some (.compp 0#4)
  | "COMPP", [pu] => (pressureUnitOf pu).map .compp
  | "COMPH", [] => some .comph
  | "READT", [] => some (.readt .celsius)
  | "READT", [tu] => (named tempUnitNames tu).map .readt
  | "READP", [] => some (.readp 0#4)
  | "READP", [pu] => (pressureUnitOf pu).map .readp
  | "READH", [] => some .readh
  | "READALL", [] => some (.readall .celsius 0#4)
  | "READALL", [unit] =>
    match named tempUnitNames unit with
    | some t => some (.readall t 0#4)
    | none => (pressureUnitOf unit).map (.readall .celsius)
  | "READALL", [tu, pu] =>
    match named tempUnitNames tu, pressureUnitOf pu with
    | some t, some p => some (.readall t p)
    | _, _ => none
  | "TRIGGER", [] => some trigger
  | "SETUP", fields => ((Setup.ofCtrl ctrl).fields fields).map Setup.expand
  | _, _ => none

/-- One line of assembly text (R107): what stands from `;` on is a comment. `ctrl` is `RESET_CTRL`. -/
def assembleLine (ctrl : BitVec 24) (line : Text) : Line :=
  let text := trimText (line.takeWhile (· != ';'))
  let mnemonic := text.takeWhile (fun c => !isBlank c)
  let rest := trimText (text.dropWhile (fun c => !isBlank c))
  if text.isEmpty then .empty
  else
    let operands := if rest.isEmpty then [] else (splitText ',' rest).map trimText
    match assembleCommand ctrl (String.ofList mnemonic) operands with
    | some i => .command i
    | none => .malformed

end Sys2Proof.Machine
end

