-- ==== Sys2Proof/Machine/Present.lean ====
section
/-! DEFINITION. The host's presentation of the results (42_compensation.md R230 to R235). The functions are exact rational
expressions; `round`, the parameter `PRESENT_FLOAT` (R231), is applied to every written operation, in the written order.
`none` is NaN. -/

namespace Sys2Proof.Machine

/-- `n / d` rounded to the nearest integer, ties to even. -/
def roundHalfEven (n d : Nat) : Nat :=
  let q := n / d
  let r := n % d
  if 2 * r < d then q else if d < 2 * r then q + 1 else q + q % 2

/-- The exponent `e` with `2^e ≤ n/d < 2^(e+1)`, for positive `n` and `d`. -/
def floorLog2 (n d : Nat) : Int :=
  let e : Int := (n.log2 : Int) - (d.log2 : Int)
  let below := if 0 ≤ e then n < d * 2 ^ e.toNat else n * 2 ^ (-e).toNat < d
  if below then e - 1 else e

/-- The default of `PRESENT_FLOAT`: IEEE 754 binary64, round to nearest, ties to even (42_compensation.md R231). Every
presented value is far below the format's largest number, so rounding to infinity does not arise (log 9). -/
def roundBinary64 (q : Rat) : Rat :=
  let n := q.num.natAbs
  if n = 0 then 0
  else
    let k := max (floorLog2 n q.den - 52) (-1074)
    let m := if 0 ≤ k then roundHalfEven n (q.den * 2 ^ k.toNat) else roundHalfEven (n * 2 ^ (-k).toNat) q.den
    let v : Rat := if 0 ≤ k then (m : Rat) * (2 ^ k.toNat : Nat) else (m : Rat) / (2 ^ (-k).toNat : Nat)
    if q.num < 0 then -v else v

/-- The presented temperature (42_compensation.md R232). -/
def presentTemperature (round : Rat → Rat) (S : Regs) : Option Rat :=
  if S.tValid then
    let celsius := round (S.tOut.toInt / 100)
    match S.tunit with
    | .celsius => some celsius
    | .fahrenheit => some (round (round (round (celsius * 9) / 5) + 32))
  else none

/-- The divisor of a pressure unit code, `none` where nothing is divided (42_compensation.md R233). -/
def pressureDivisor (punit : BitVec 4) : Option Rat :=
  match punit.toNat with
  | 1 => some 100
  | 2 => some (33863752577878 / 10000000000)
  | 3 => some (10132499766353 / 100000000)
  | 4 => some 100000
  | 5 => some (13332236534674 / 100000000000)
  | 7 => some (6894744825494 / 1000000000)
  | _ => none

/-- The presented pressure (42_compensation.md R233). -/
def presentPressure (round : Rat → Rat) (S : Regs) : Option Rat :=
  if S.pValid then
    let pa := round (S.pOut.toNat / 256)
    match pressureDivisor S.punit with
    | some d => some (round (pa / round d))
    | none => some pa
  else none

/-- The presented humidity in percent (42_compensation.md R234). -/
def presentHumidity (round : Rat → Rat) (S : Regs) : Option Rat :=
  if S.hValid then some (round (S.hOut.toNat / 1024)) else none

end Sys2Proof.Machine
end

