-- ==== Sys2Proof/Safety.lean ====
section
/-! DEFINITION. What the spec's whole-machine rules say of a state, and the states a run can reach. -/

namespace Sys2Proof.Machine

/-- The exact result fits the width (42_compensation.md R180). -/
def Fits (w : Nat) (e : Int) : Prop := -2 ^ (w - 1) ≤ e ∧ e < 2 ^ (w - 1)

/-- The block, not the host, moves next once a command has reached its `finish` (log 1). -/
def GoesOn (oracle : List Reply) : Prop := oracle.head? ≠ some .wait

/-- The state after a word that is refused: only the error code and AOVF change (30_encoding.md R100). -/
def State.refused (s : State) : State := { s with regs := { s.regs with err := .illegalCommand, aovf := false } }

/-- The shadow invariant (40_configurator.md R132): the shadow satisfies `conf_ok`. -/
def Regs.ShadowOk (S : Regs) : Prop := confOk S.ctrlHum S.ctrlMeas S.config = true

/-- The sampling invariants (41_sampler.md R166), with what COMPT's own VALID bit promises beside them. -/
structure Regs.Sampled (S : Regs) : Prop where
  /-- R166 point 1. -/
  raw : S.rawValid = true → S.ready = true
  /-- R166 point 2. -/
  tfine : S.tfineValid = true → S.rawValid = true ∧ S.tFine = (tempFormula S.adcT (coeffs S.cal)).tFine.val
  /-- T_OUT comes from the present sample (42_compensation.md R190, 10_state.md R38). -/
  temp : S.tValid = true → S.tfineValid = true ∧ S.tOut = (tempFormula S.adcT (coeffs S.cal)).tOut.val
  /-- R166 point 3, pressure. -/
  pres : S.pValid = true → S.tfineValid = true ∧
    ∃ ovf, presFormula S.adcP S.tFine (coeffs S.cal) = .pressure { val := S.pOut, ovf := ovf }
  /-- R166 point 3, humidity. -/
  hum : S.hValid = true → S.tfineValid = true ∧ S.hOut = (humFormula S.adcH S.tFine (coeffs S.cal)).val

/-- A command that begins with `acquire()` (43_orchestration.md R240). -/
def Command.acquires : Command → Bool
  | .legal .readraw => true
  | .legal (.readt _) => true
  | .legal (.readp _) => true
  | .legal .readh => true
  | .legal (.readall _ _) => true
  | .legal .init => false
  | .legal (.configure _ _ _) => false
  | .legal (.setmode _) => false
  | .legal (.compt _) => false
  | .legal (.compp _) => false
  | .legal .comph => false
  | .illegal _ => false

/-- What holds of the staged copy while the named command waits for an answer: INIT waits only when not ready
(40_configurator.md R125), and an acquisition only when ready with every dependant cleared (41_sampler.md R160). -/
structure Run.Waits (r : Run) : Prop where
  init : r.command = .legal .init → r.staged.ready = false
  acquire : r.command.acquires = true → r.staged.ready = true ∧ r.staged = r.staged.clearSample

/-- What holds of a staged copy beside the committed registers: it keeps both invariants, once the block is ready it
stays ready with the same calibration table (10_state.md R39), and AOVF_ANY stays. -/
structure Regs.Stages (S staged : Regs) : Prop where
  shadow : staged.ShadowOk
  sampled : staged.Sampled
  ready : S.ready = true → staged.ready = true ∧ staged.cal = S.cal
  /-- AOVF_ANY is sticky (10_state.md R38). -/
  sticky : S.aovfAny = true → staged.aovfAny = true

/-- The invariant of every reachable state. -/
structure State.Inv (s : State) : Prop where
  params : s.params.wellFormed = true
  shadow : s.regs.ShadowOk
  sampled : s.regs.Sampled
  waiting : ∀ r txn, s.phase = .waiting r txn → s.regs.Stages r.staged ∧ r.Waits
  finishing : ∀ r code, s.phase = .finishing r code → s.regs.Stages r.staged
  sensor : s.sensor.wf

/-- The states a run can reach: from reset, under any legal parameters, any accesses of the host and any answers of the
sensor. -/
inductive Reachable : State → Prop where
  | reset (p : Config.Params) (inputs : List Input) (oracle : List Reply) (legal : p.wellFormed = true) :
      Reachable { State.resetWith p with inputs := inputs, oracle := oracle }
  | step (s t : State) : Reachable s → Machine.step s = .next t → Reachable t

end Sys2Proof.Machine
end

