-- ==== Sys2Proof/Certificates/Slice0/Obligations.lean ====
section
/-! DEFINITION. The statements for the provers. Beside a rule of spec/ each docstring cites, a hypothesis that the model's
environment brings in is named there: `GoesOn` and the shape of `oracle` are premises on the SENSOR's answers and on
whose turn it is (20_memory.md R67; logs 1 and 3). The clauses on `bus`, `reads` and `sensor` say in the model's own fields
(logs 4 and 6) which transactions and reads were made and what the sensor's registers are then taken to hold
(20_memory.md R68). Where a result register is said to keep its value while its VALID bit is 0, that is 10_state.md R37's
'leaves the result register as it was' and the model's choice to keep it (log 15); no statement rests on the value. -/

open Sys2Proof Sys2Proof.Machine

/-! ## Encoding -/

/-- Decoding the word of a well-formed command gives the command back (30_encoding.md R100, R107). -/
def Obligations.DecodeOfEncodeIsTheCommand : Prop :=
  ∀ i : Instr, i.wellFormed = true → decode (encode i) = .ok i

/-- A word that decodes is the word of the command it decodes to, and of no other (30_encoding.md R100). -/
def Obligations.EncodeOfDecodeIsTheWord : Prop :=
  ∀ (w : Word) (i : Instr), decode w = .ok i → encode i = w

/-- 30_encoding.md R101, with the effect R100 gives a refused word. -/
def Obligations.ReservedOpcodesAreIllegal : Prop :=
  ∀ (w : Word) (s : State), w.toNat / 2 ^ 24 = 0 ∨ 0x0C ≤ w.toNat / 2 ^ 24 → s.phase = .idle → GoesOn s.oracle →
    decode w = .error .reservedOpcode ∧ runWord w s = .next s.refused

/-- 30_encoding.md R102, the reserved operand bits of every format, with the effect R100 gives a refused word. -/
def Obligations.ReservedBitsAreIllegal : Prop :=
  ∀ (w : Word) (s : State) (opc op : Nat), opc = w.toNat / 2 ^ 24 → op = w.toNat % 2 ^ 24 →
    ((opc = 0x01 ∨ opc = 0x04 ∨ opc = 0x07 ∨ opc = 0x0A) ∧ op ≠ 0) ∨
    (opc = 0x02 ∧ (op / 2 ^ 19 ≠ 0 ∨ op / 2 % 2 ≠ 0)) ∨
    (opc = 0x03 ∧ op / 2 ^ 2 ≠ 0) ∨
    ((opc = 0x05 ∨ opc = 0x08) ∧ op / 2 ≠ 0) ∨
    ((opc = 0x06 ∨ opc = 0x09) ∧ op / 2 ^ 4 ≠ 0) ∨
    (opc = 0x0B ∧ (op / 2 ^ 8 ≠ 0 ∨ op / 2 % 2 ^ 3 ≠ 0)) →
    s.phase = .idle → GoesOn s.oracle →
    decode w = .error .reservedBit ∧ runWord w s = .next s.refused

/-- 30_encoding.md R104: CONFIGURE is accepted exactly when `conf_ok` holds of its operand, and then its operands are the
three bytes (R95). -/
def Obligations.ConfigureOperandsAreChecked : Prop :=
  ∀ (w : Word) (s : State) (op : Nat), w.toNat = 0x02 * 2 ^ 24 + op → op < 2 ^ 24 → s.phase = .idle → GoesOn s.oracle →
    (op / 2 ^ 19 = 0 ∧ op / 2 ^ 16 % 8 ≤ 5 ∧ op / 2 ^ 13 % 8 ≤ 5 ∧ op / 2 ^ 10 % 8 ≤ 5 ∧ op / 2 ^ 8 % 4 ≠ 2 ∧
        op / 4 % 8 ≤ 4 ∧ op / 2 % 2 = 0 →
      decode w = .ok (.configure (.ofNat 8 (op / 2 ^ 16)) (.ofNat 8 (op / 2 ^ 8)) (.ofNat 8 op))) ∧
    (¬(op / 2 ^ 19 = 0 ∧ op / 2 ^ 16 % 8 ≤ 5 ∧ op / 2 ^ 13 % 8 ≤ 5 ∧ op / 2 ^ 10 % 8 ≤ 5 ∧ op / 2 ^ 8 % 4 ≠ 2 ∧
        op / 4 % 8 ≤ 4 ∧ op / 2 % 2 = 0) →
      runWord w s = .next s.refused)

/-- 30_encoding.md R105. -/
def Obligations.SetmodeRefusesModeTen : Prop :=
  ∀ (m : Nat) (s : State), m < 4 → s.phase = .idle → GoesOn s.oracle →
    (m ≠ 2 → decode (.ofNat 32 (0x03000000 + m)) = .ok (.setmode (.ofNat 2 m))) ∧
    (m = 2 → runWord (.ofNat 32 (0x03000000 + m)) s = .next s.refused)

/-- Words written out from the spec's encodings (30_encoding.md R107, R109; 95_test_vectors.md E-1) decode to the commands
they stand for. -/
def Obligations.WrittenOutWordsDecode : Prop :=
  decode 0x01000000#32 = .ok .init ∧
  decode 0x02015710#32 = .ok (.configure 0x01#8 0x57#8 0x10#8) ∧
  decode 0x03000003#32 = .ok (.setmode 3#2) ∧
  decode 0x04000000#32 = .ok .readraw ∧
  decode 0x06000007#32 = .ok (.compp 7#4) ∧
  decode 0x08000001#32 = .ok (.readt .fahrenheit) ∧
  decode 0x0B000011#32 = .ok (.readall .fahrenheit 1#4)

/-- The assembler's worked encodings (30_encoding.md R109, R108); that a comment may follow a command is the model's choice
(log 14). -/
def Obligations.WorkedEncodingsAssemble : Prop :=
  (∃ i, assembleLine 0x0125A0#24 "SETUP t=x2, p=x16, h=x1, mode=normal, sb=0, filter=16, if=0".toList = .command i ∧
    encode i = 0x02015710#32) ∧
  (∃ i, assembleLine 0x0125A0#24 "READALL F, hPa".toList = .command i ∧ encode i = 0x0B000011#32) ∧
  (∃ i, assembleLine 0x0125A0#24 "COMPP psi".toList = .command i ∧ encode i = 0x06000007#32) ∧
  (∃ i, assembleLine 0x0125A0#24 "TRIGGER ; re-arm".toList = .command i ∧ encode i = 0x03000001#32)

/-! ## A step, and the host's side -/

/-- A step that finds a command word on the host's turn runs that word, the turn and the access used up (model's convention,
logs 1 and 2): the command it decodes to, or, for a word that is refused before an idle block free to go on, IllegalCommand
and nothing else (30_encoding.md R100). So does the word placed by `withFetchWord`. -/
def Obligations.StepRunsTheDecodedCommand : Prop :=
  (∀ (s : State) (w : Word) (rest : List Input) (i : Instr),
    s.canMove = false → s.inputs = .write 0#8 w :: rest → decode w = .ok i →
    step s = exec i { s.endWait with inputs := rest }) ∧
  (∀ (s : State) (w : Word) (i : Instr), decode w = .ok i →
    step (s.withFetchWord 32 w.toNat) = exec i { s with phase := .idle }) ∧
  (∀ (s : State) (w : Word) (rest : List Input), s.canMove = false → s.inputs = .write 0#8 w :: rest →
    step s = runWord w { s.endWait with inputs := rest }) ∧
  (∀ (s : State) (w : Word) (rest : List Input) (e : Refused), s.phase = .idle → GoesOn s.oracle →
    s.inputs = .write 0#8 w :: rest → decode w = .error e → step s = .next { s with inputs := rest }.refused)

/-- 10_state.md R24, second branch, and 70_reset_and_hazards.md R300: whatever the word, a CMD write while busy is discarded
and sets OVR, and the running command is not disturbed. -/
def Obligations.CmdWriteWhileBusySetsOvrOnly : Prop :=
  ∀ (s : State) (w : Word) (rest : List Input), s.busy = true → s.canMove = false → s.inputs = .write 0#8 w :: rest →
    step s = .next { s.endWait with inputs := rest, ovr := true }

/-- 10_state.md R23: the content of every index, by bits. -/
def Obligations.HostRegisterMap : Prop :=
  ∀ s : State,
    s.hostRegister 0x00#8 = 0#32 ∧
    s.hostRegister 0x01#8 = s.statusWord ∧
    (s.hostRegister 0x02#8).toNat = s.regs.chipId.toNat ∧
    (s.hostRegister 0x03#8).toNat =
      s.regs.ctrlHum.toNat * 2 ^ 16 + s.regs.ctrlMeas.toNat * 2 ^ 8 + s.regs.config.toNat ∧
    (∀ k i : Nat, k < 8 → i < 4 →
      s.regs.cal[4 * k + i]? = some ((s.hostRegister (.ofNat 8 (4 + k))).extractLsb' (8 * i) 8)) ∧
    (s.hostRegister 0x0C#8).toNat = s.regs.adcP.toNat ∧
    (s.hostRegister 0x0D#8).toNat = s.regs.adcT.toNat ∧
    (s.hostRegister 0x0E#8).toNat = s.regs.adcH.toNat ∧
    s.hostRegister 0x0F#8 = s.regs.sampleSeq ∧
    s.hostRegister 0x10#8 = s.regs.tFine ∧
    s.hostRegister 0x11#8 = s.regs.tOut ∧
    s.hostRegister 0x12#8 = s.regs.pOut ∧
    s.hostRegister 0x13#8 = s.regs.hOut ∧
    s.hostRegister 0x14#8 = s.regs.flagsWord ∧
    (∀ index : BitVec 8, 0x15 ≤ index.toNat → s.hostRegister index = 0#32)

/-- 10_state.md R25: the bits of STATUS; and 60_exceptions.md R260: the code of every error. -/
def Obligations.StatusBits : Prop :=
  ∀ s : State,
    s.statusWord.extractLsb' 0 8 = s.regs.err.byte ∧
    s.statusWord.getLsbD 8 = s.busy ∧
    s.statusWord.getLsbD 9 = s.regs.ready ∧
    s.statusWord.getLsbD 10 = s.ovr ∧
    s.statusWord.getLsbD 11 = s.regs.aovf ∧
    s.statusWord.getLsbD 12 = s.regs.aovfAny ∧
    s.statusWord.extractLsb' 13 19 = 0#19 ∧
    ErrorCode.ok.byte = 0x00#8 ∧
    ErrorCode.identityMismatch.byte = 0x01#8 ∧
    ErrorCode.calibrationReadIncomplete.byte = 0x02#8 ∧
    ErrorCode.transportReadError.byte = 0x03#8 ∧
    ErrorCode.transportWriteError.byte = 0x04#8 ∧
    ErrorCode.notInitialized.byte = 0x05#8 ∧
    ErrorCode.divideByZero.byte = 0x06#8 ∧
    ErrorCode.dependencyViolation.byte = 0x07#8 ∧
    ErrorCode.illegalCommand.byte = 0x08#8

/-- 10_state.md R36: the bits of FLAGS. -/
def Obligations.FlagsBits : Prop :=
  ∀ S : Regs,
    S.flagsWord.getLsbD 0 = S.rawValid ∧
    S.flagsWord.getLsbD 1 = S.tfineValid ∧
    S.flagsWord.getLsbD 2 = S.tValid ∧
    S.flagsWord.getLsbD 3 = S.pValid ∧
    S.flagsWord.getLsbD 4 = S.hValid ∧
    S.flagsWord.extractLsb' 5 3 = 0#3 ∧
    (S.flagsWord.getLsbD 8 = true ↔ S.tunit = .fahrenheit) ∧
    S.flagsWord.extractLsb' 9 3 = 0#3 ∧
    S.flagsWord.extractLsb' 12 4 = S.punit ∧
    S.flagsWord.extractLsb' 16 16 = 0#16

/-- 10_state.md R23, last sentences: on the host's turn a read returns the register and changes nothing of the block, and a
write to any index but CMD's changes nothing. -/
def Obligations.HostAccessesHaveNoOtherEffect : Prop :=
  ∀ (s : State) (index : BitVec 8) (w : Word) (rest : List Input), s.canMove = false →
    (s.inputs = .read index :: rest →
      step s = .next { s.endWait with inputs := rest, reads := (index, s.hostRegister index) :: s.reads }) ∧
    (s.inputs = .write index w :: rest → index ≠ 0#8 → step s = .next { s.endWait with inputs := rest })

/-! ## INIT -/

/-- INIT's success (40_configurator.md R120 to R124): the eight transactions in order, the table loaded in the order of the
sub-reads (41_sampler.md R151), READY set, nothing else changed. -/
def Obligations.InitLoadsTheTableAndGetsReady : Prop :=
  ∀ (s : State) (id : Byte) (w1 w2 w3 c1 c2 c3 c4 : List Byte) (rest : List Reply),
    s.phase = .idle → s.regs.ready = false → id = 0x60#8 ∨ id = 0x58#8 →
    c1.length = 6 → c2.length = 18 → c3.length = 1 → c4.length = 7 →
    s.oracle = .answer true [id] :: .answer true w1 :: .answer true w2 :: .answer true w3 ::
      .answer true c1 :: .answer true c2 :: .answer true c3 :: .answer true c4 :: rest →
    GoesOn rest →
    ∃ cal : Vector Byte 32, cal.toList = c1 ++ c2 ++ c3 ++ c4 ∧
      exec .init s = .next { s with
        regs := { s.regs with chipId := id, cal := cal, ready := true, err := .ok, aovf := false }
        oracle := rest
        sensor := ((s.sensor.write 0xF2 s.regs.ctrlHum).write 0xF4 s.regs.ctrlMeas).write 0xF5 s.regs.config
        bus := .read 0xE1#8 7 :: .read 0xA1#8 1 :: .read 0x8E#8 18 :: .read 0x88#8 6 ::
          .write 0xF5#8 s.regs.config :: .write 0xF4#8 s.regs.ctrlMeas :: .write 0xF2#8 s.regs.ctrlHum ::
          .read 0xD0#8 1 :: s.bus }

/-- INIT's identity step failing (40_configurator.md R121): a failed read leaves CHIP_ID, a byte that is neither identity
is stored. -/
def Obligations.InitIdentityFailures : Prop :=
  ∀ (s : State) (success : Bool) (bytes : List Byte) (id : Byte) (rest : List Reply),
    s.phase = .idle → s.regs.ready = false → GoesOn rest →
    (success = false ∨ bytes.length ≠ 1 → s.oracle = .answer success bytes :: rest →
      exec .init s = .next { s with
        regs := { s.regs with err := .transportReadError, aovf := false }
        oracle := rest, bus := .read 0xD0#8 1 :: s.bus }) ∧
    (id ≠ 0x60#8 → id ≠ 0x58#8 → s.oracle = .answer true [id] :: rest →
      exec .init s = .next { s with
        regs := { s.regs with chipId := id, err := .identityMismatch, aovf := false }
        oracle := rest, bus := .read 0xD0#8 1 :: s.bus })

/-- INIT's control writes failing (40_configurator.md R122): the first failure ends the command, no later write and no
calibration read is attempted, and READY stays 0. -/
def Obligations.InitStopsAtTheFirstFailedWrite : Prop :=
  ∀ (s : State) (id : Byte) (w1 w2 junk : List Byte) (rest : List Reply),
    s.phase = .idle → s.regs.ready = false → id = 0x60#8 ∨ id = 0x58#8 → GoesOn rest →
    (s.oracle = .answer true [id] :: .answer false junk :: rest →
      exec .init s = .next { s with
        regs := { s.regs with chipId := id, err := .transportWriteError, aovf := false }
        oracle := rest, sensor := s.sensor.forget 0xF2
        bus := .write 0xF2#8 s.regs.ctrlHum :: .read 0xD0#8 1 :: s.bus }) ∧
    (s.oracle = .answer true [id] :: .answer true w1 :: .answer false junk :: rest →
      exec .init s = .next { s with
        regs := { s.regs with chipId := id, err := .transportWriteError, aovf := false }
        oracle := rest, sensor := (s.sensor.write 0xF2 s.regs.ctrlHum).forget 0xF4
        bus := .write 0xF4#8 s.regs.ctrlMeas :: .write 0xF2#8 s.regs.ctrlHum :: .read 0xD0#8 1 :: s.bus }) ∧
    (s.oracle = .answer true [id] :: .answer true w1 :: .answer true w2 :: .answer false junk :: rest →
      exec .init s = .next { s with
        regs := { s.regs with chipId := id, err := .transportWriteError, aovf := false }
        oracle := rest
        sensor := ((s.sensor.write 0xF2 s.regs.ctrlHum).write 0xF4 s.regs.ctrlMeas).forget 0xF5
        bus := .write 0xF5#8 s.regs.config :: .write 0xF4#8 s.regs.ctrlMeas :: .write 0xF2#8 s.regs.ctrlHum ::
          .read 0xD0#8 1 :: s.bus })

/-- INIT's calibration reads (40_configurator.md R123): all four are attempted whatever fails, and one failure is enough for
CalibrationReadIncomplete, the table and READY unchanged. -/
def Obligations.InitAttemptsAllFourSubReads : Prop :=
  ∀ (s : State) (id : Byte) (w1 w2 w3 c1 c2 c3 c4 : List Byte) (k1 k2 k3 k4 : Bool) (rest : List Reply),
    s.phase = .idle → s.regs.ready = false → id = 0x60#8 ∨ id = 0x58#8 →
    ¬((k1 = true ∧ c1.length = 6) ∧ (k2 = true ∧ c2.length = 18) ∧ (k3 = true ∧ c3.length = 1) ∧
      (k4 = true ∧ c4.length = 7)) →
    s.oracle = .answer true [id] :: .answer true w1 :: .answer true w2 :: .answer true w3 ::
      .answer k1 c1 :: .answer k2 c2 :: .answer k3 c3 :: .answer k4 c4 :: rest →
    GoesOn rest →
    exec .init s = .next { s with
      regs := { s.regs with chipId := id, err := .calibrationReadIncomplete, aovf := false }
      oracle := rest
      sensor := ((s.sensor.write 0xF2 s.regs.ctrlHum).write 0xF4 s.regs.ctrlMeas).write 0xF5 s.regs.config
      bus := .read 0xE1#8 7 :: .read 0xA1#8 1 :: .read 0x8E#8 18 :: .read 0x88#8 6 ::
        .write 0xF5#8 s.regs.config :: .write 0xF4#8 s.regs.ctrlMeas :: .write 0xF2#8 s.regs.ctrlHum ::
        .read 0xD0#8 1 :: s.bus }

/-- 40_configurator.md R125: INIT when ready is a no-op that reports OK (AOVF is cleared at every acceptance, 10_state.md
R24). -/
def Obligations.InitWhenReadyChangesNothing : Prop :=
  ∀ s : State, s.phase = .idle → s.regs.ready = true → GoesOn s.oracle →
    exec .init s = .next { s with regs := { s.regs with err := .ok, aovf := false } }

/-- INIT's frame: on any outcome it changes no shadow byte, no sample, result, flag or unit, and reaches no sensor register
but the three control registers (40_configurator.md R126). -/
def Obligations.InitFrame : Prop :=
  ∀ (s t : State), exec .init s = .next t →
    t.regs = { s.regs with ready := t.regs.ready, err := t.regs.err, aovf := t.regs.aovf, chipId := t.regs.chipId,
                           cal := t.regs.cal } ∧
    (s.regs.ready = true → t.regs.ready = true ∧ t.regs.cal = s.regs.cal ∧ t.regs.chipId = s.regs.chipId) ∧
    (t.regs.ready = false → t.regs.cal = s.regs.cal) ∧
    (∀ a : Nat, a ≠ Config.ctrlHumAddr.toNat → a ≠ Config.ctrlMeasAddr.toNat → a ≠ Config.configAddr.toNat →
      t.sensor.read a = s.sensor.read a)

/-! ## CONFIGURE and SETMODE -/

/-- CONFIGURE with every write acknowledged (40_configurator.md R128), ready or not. That it says the same of operands
that `conf_ok` refuses is the model's choice (log 11): decoding refuses them first (30_encoding.md R104), so no step runs
exec on them. -/
def Obligations.ConfigureWritesTheThreeBytes : Prop :=
  ∀ (s : State) (hum meas cfg : Byte) (w1 w2 w3 : List Byte) (rest : List Reply), s.phase = .idle →
    s.oracle = .answer true w1 :: .answer true w2 :: .answer true w3 :: rest → GoesOn rest →
    exec (.configure hum meas cfg) s = .next { s with
      regs := { s.regs with ctrlHum := hum, ctrlMeas := meas, config := cfg, err := .ok, aovf := false }
      oracle := rest
      sensor := ((s.sensor.write 0xF2 hum).write 0xF4 meas).write 0xF5 cfg
      bus := .write 0xF5#8 cfg :: .write 0xF4#8 meas :: .write 0xF2#8 hum :: s.bus }

/-- 40_configurator.md R129: the shadow keeps the new bytes when a write fails, the first failing write ends the command,
and what the sensor's register then holds is unknown (20_memory.md R68). That it says the same of operands that `conf_ok`
refuses is the model's choice (log 11): decoding refuses them first (30_encoding.md R104). -/
def Obligations.ConfigureKeepsTheShadowOnFailure : Prop :=
  ∀ (s : State) (hum meas cfg : Byte) (w1 w2 junk : List Byte) (rest : List Reply) (S : Regs), s.phase = .idle →
    S = { s.regs with ctrlHum := hum, ctrlMeas := meas, config := cfg, err := .transportWriteError, aovf := false } →
    GoesOn rest →
    (s.oracle = .answer false junk :: rest →
      exec (.configure hum meas cfg) s = .next { s with
        regs := S, oracle := rest, sensor := s.sensor.forget 0xF2, bus := .write 0xF2#8 hum :: s.bus }) ∧
    (s.oracle = .answer true w1 :: .answer false junk :: rest →
      exec (.configure hum meas cfg) s = .next { s with
        regs := S, oracle := rest, sensor := (s.sensor.write 0xF2 hum).forget 0xF4
        bus := .write 0xF4#8 meas :: .write 0xF2#8 hum :: s.bus }) ∧
    (s.oracle = .answer true w1 :: .answer true w2 :: .answer false junk :: rest →
      exec (.configure hum meas cfg) s = .next { s with
        regs := S, oracle := rest, sensor := ((s.sensor.write 0xF2 hum).write 0xF4 meas).forget 0xF5
        bus := .write 0xF5#8 cfg :: .write 0xF4#8 meas :: .write 0xF2#8 hum :: s.bus })

/-- 40_configurator.md R133: the shadow's new ctrl_meas under either parameter value, kept even when the one write fails
(R134). That it says the same of mode 10 is the model's choice (log 11): decoding refuses it first (30_encoding.md R105). -/
def Obligations.SetmodeOrsTheModeBits : Prop :=
  ∀ (s : State) (mode : BitVec 2) (success : Bool) (bytes : List Byte) (rest : List Reply) (meas : Byte),
    s.phase = .idle → s.oracle = .answer success bytes :: rest → GoesOn rest →
    (s.params.setmodeClearsMode = false → meas = s.regs.ctrlMeas ||| mode.zeroExtend 8) →
    (s.params.setmodeClearsMode = true → meas = (s.regs.ctrlMeas &&& 0xFC#8) ||| mode.zeroExtend 8) →
    exec (.setmode mode) s = .next { s with
      regs := { s.regs with
        ctrlMeas := meas, err := if success then .ok else .transportWriteError, aovf := false }
      oracle := rest
      sensor := if success then s.sensor.write 0xF4 meas else s.sensor.forget 0xF4
      bus := .write 0xF4#8 meas :: s.bus }

/-- The frame of CONFIGURE and SETMODE on any outcome (40_configurator.md R130, R134): only the shadow, the error code and
AOVF can change, and only the sensor's control registers can be written; the model's choice on operands that decoding
refuses (log 11). -/
def Obligations.ConfiguratorFrame : Prop :=
  ∀ (s t : State) (hum meas cfg : Byte) (mode : BitVec 2),
    (exec (.configure hum meas cfg) s = .next t →
      t.regs = { s.regs with ctrlHum := t.regs.ctrlHum, ctrlMeas := t.regs.ctrlMeas, config := t.regs.config,
                             err := t.regs.err, aovf := t.regs.aovf } ∧
      ∀ a : Nat, a ≠ Config.ctrlHumAddr.toNat → a ≠ Config.ctrlMeasAddr.toNat → a ≠ Config.configAddr.toNat →
        t.sensor.read a = s.sensor.read a) ∧
    (exec (.setmode mode) s = .next t →
      t.regs = { s.regs with ctrlMeas := t.regs.ctrlMeas, err := t.regs.err, aovf := t.regs.aovf } ∧
      ∀ a : Nat, a ≠ Config.ctrlMeasAddr.toNat → t.sensor.read a = s.sensor.read a)

/-! ## Acquisition -/

/-- The registers after a successful acquisition (41_sampler.md R162, R163), AOVF cleared at acceptance. -/
def Sys2Proof.Machine.acquired (S : Regs) (b0 b1 b2 b3 b4 b5 b6 b7 : Byte) : Regs :=
  { S with
    adcP := .ofNat 20 (b0.toNat * 2 ^ 12 + b1.toNat * 2 ^ 4 + b2.toNat / 2 ^ 4)
    adcT := .ofNat 20 (b3.toNat * 2 ^ 12 + b4.toNat * 2 ^ 4 + b5.toNat / 2 ^ 4)
    adcH := .ofNat 16 (b6.toNat * 2 ^ 8 + b7.toNat)
    sampleSeq := S.sampleSeq + 1#32
    rawValid := true, tfineValid := false, tValid := false, pValid := false, hValid := false, aovf := false }

/-- The state `s` after its acquisition's transactions, with registers `S`: in forced mode the re-arm write of the shadow's
own ctrl_meas, then the burst (41_sampler.md R161, R162). -/
def Sys2Proof.Machine.afterBurst (s : State) (S : Regs) (rest : List Reply) : State :=
  { s with
    regs := S, oracle := rest
    sensor := if s.regs.ctrlMeas.extractLsb' 0 2 = 1#2 then s.sensor.write 0xF4 s.regs.ctrlMeas else s.sensor
    bus := if s.regs.ctrlMeas.extractLsb' 0 2 = 1#2 then .read 0xF7#8 8 :: .write 0xF4#8 s.regs.ctrlMeas :: s.bus
      else .read 0xF7#8 8 :: s.bus }

/-- The premise of a successful acquisition: idle and ready, the re-arm acknowledged in forced mode, the burst answered with
its eight bytes, and the block free to go on. -/
def Sys2Proof.Machine.BurstAnswered (s : State) (w : List Byte) (b0 b1 b2 b3 b4 b5 b6 b7 : Byte) (rest : List Reply) : Prop :=
  s.phase = .idle ∧ s.regs.ready = true ∧ GoesOn rest ∧
  s.oracle = if s.regs.ctrlMeas.extractLsb' 0 2 = 1#2 then
      .answer true w :: .answer true [b0, b1, b2, b3, b4, b5, b6, b7] :: rest
    else .answer true [b0, b1, b2, b3, b4, b5, b6, b7] :: rest

/-- READRAW's success (41_sampler.md R160 to R163). -/
def Obligations.ReadrawTakesASample : Prop :=
  ∀ (s : State) (w : List Byte) (b0 b1 b2 b3 b4 b5 b6 b7 : Byte) (rest : List Reply),
    BurstAnswered s w b0 b1 b2 b3 b4 b5 b6 b7 rest →
    exec .readraw s =
      .next (afterBurst s { acquired s.regs b0 b1 b2 b3 b4 b5 b6 b7 with err := .ok } rest)

/-- A failing acquisition in READRAW, READT, READP, READH and READALL (41_sampler.md R164, 43_orchestration.md R241): the
five flags are 0, the raw values, SAMPLE_SEQ, t_fine, the results and the units keep their values, and no compensation
runs. -/
def Obligations.FailedAcquisitionClearsEveryFlag : Prop :=
  ∀ (s : State) (i : Instr) (success : Bool) (w bytes junk : List Byte) (rest : List Reply) (S : Regs),
    (Command.legal i).acquires = true → s.phase = .idle →
    S = { s.regs with rawValid := false, tfineValid := false, tValid := false, pValid := false, hValid := false,
                      aovf := false } →
    (s.regs.ready = false → GoesOn s.oracle →
      exec i s = .next { s with regs := { S with err := .notInitialized } }) ∧
    (s.regs.ready = true → s.regs.ctrlMeas.extractLsb' 0 2 = 1#2 → s.oracle = .answer false junk :: rest → GoesOn rest →
      exec i s = .next { s with
        regs := { S with err := .transportWriteError }, oracle := rest, sensor := s.sensor.forget 0xF4
        bus := .write 0xF4#8 s.regs.ctrlMeas :: s.bus }) ∧
    (s.regs.ready = true → s.regs.ctrlMeas.extractLsb' 0 2 ≠ 1#2 → success = false ∨ bytes.length ≠ 8 →
      s.oracle = .answer success bytes :: rest → GoesOn rest →
      exec i s = .next (afterBurst s { S with err := .transportReadError } rest)) ∧
    (s.regs.ready = true → s.regs.ctrlMeas.extractLsb' 0 2 = 1#2 → success = false ∨ bytes.length ≠ 8 →
      s.oracle = .answer true w :: .answer success bytes :: rest → GoesOn rest →
      exec i s = .next (afterBurst s { S with err := .transportReadError } rest))

/-- The frame of the commands that acquire, on any outcome: READY, CHIP_ID, the calibration table and the shadow keep their
values (ctrl_meas too: the re-arm leaves it, 41_sampler.md R161), and only 0xF4 can be written. -/
def Obligations.AcquiringCommandsFrame : Prop :=
  ∀ (s t : State) (i : Instr), (Command.legal i).acquires = true → exec i s = .next t →
    t.regs.ready = s.regs.ready ∧ t.regs.chipId = s.regs.chipId ∧ t.regs.cal = s.regs.cal ∧
    t.regs.ctrlHum = s.regs.ctrlHum ∧ t.regs.ctrlMeas = s.regs.ctrlMeas ∧ t.regs.config = s.regs.config ∧
    (∀ a : Nat, a ≠ Config.ctrlMeasAddr.toNat → t.sensor.read a = s.sensor.read a) ∧
    (i = .readraw → t.regs.tFine = s.regs.tFine ∧ t.regs.tOut = s.regs.tOut ∧ t.regs.aovfAny = s.regs.aovfAny) ∧
    (i = .readraw ∨ i = .readh ∨ (∃ tu, i = .readt tu) → t.regs.pOut = s.regs.pOut ∧ t.regs.punit = s.regs.punit) ∧
    (i = .readraw ∨ (∃ tu, i = .readt tu) ∨ (∃ pu, i = .readp pu) → t.regs.hOut = s.regs.hOut) ∧
    (i = .readraw ∨ i = .readh ∨ (∃ pu, i = .readp pu) → t.regs.tunit = s.regs.tunit)

/-! ## Arithmetic -/

/-- 42_compensation.md R180: the value of a checked operation is the one congruent to the exact result in the signed range,
and its overflow indication is raised exactly when an operand's was or the exact result does not fit. -/
def Obligations.CheckedOperationsWrapAndRecord : Prop :=
  ∀ (w : Nat) (a b r : Checked w) (e : Int) (o : Bool) (k : Nat), 0 < w →
    ((r = a.add b ∧ e = a.val.toInt + b.val.toInt ∧ o = (a.ovf || b.ovf)) ∨
     (r = a.sub b ∧ e = a.val.toInt - b.val.toInt ∧ o = (a.ovf || b.ovf)) ∨
     (r = a.mul b ∧ e = a.val.toInt * b.val.toInt ∧ o = (a.ovf || b.ovf)) ∨
     (r = a.shl k ∧ e = a.val.toInt * 2 ^ k ∧ o = a.ovf)) →
    Fits w r.val.toInt ∧ (2 ^ w : Int) ∣ e - r.val.toInt ∧ (r.ovf = true ↔ o = true ∨ ¬Fits w e)

/-- 42_compensation.md R181: the right shift floors and never overflows, at the working widths and any other; with the
rule's example. -/
def Obligations.RightShiftFloors : Prop :=
  (∀ (w : Nat) (a : Checked w) (k : Nat),
    (a.shr k).val.toInt * 2 ^ k ≤ a.val.toInt ∧ a.val.toInt < ((a.shr k).val.toInt + 1) * 2 ^ k ∧
    (a.shr k).ovf = a.ovf) ∧
  ((Checked.lit (-6076000) : Checked 32).shr 14).val.toInt = -371

/-- 42_compensation.md R182: the quotient is truncated toward zero, and only -2^63 / -1 overflows, to -2^63. -/
def Obligations.DivisionTruncatesTowardZero : Prop :=
  ∀ (a b : Checked 64), b.val.toInt ≠ 0 →
    (¬(a.val.toInt = -2 ^ 63 ∧ b.val.toInt = -1) →
      (a.div b).ovf = (a.ovf || b.ovf) ∧
      |(a.div b).val.toInt| * |b.val.toInt| ≤ |a.val.toInt| ∧
      |a.val.toInt| < (|(a.div b).val.toInt| + 1) * |b.val.toInt| ∧
      0 ≤ (a.div b).val.toInt * (a.val.toInt * b.val.toInt)) ∧
    (a.val.toInt = -2 ^ 63 → b.val.toInt = -1 → (a.div b).ovf = true ∧ (a.div b).val.toInt = -2 ^ 63)

/-- `n`, a number of `w` bits, read as two's complement. -/
def Sys2Proof.Machine.signedOf (w : Nat) (n : Int) : Int := if n < 2 ^ (w - 1) then n else n - 2 ^ w

/-- Every coefficient from its bytes, least significant first, H4 and H5 sharing byte 29 (41_sampler.md R152), and the range
that follows (R153), whatever the table. -/
def Obligations.CoefficientRanges : Prop :=
  ∀ (cal : Vector Byte 32) (c : Coeffs) (b : Nat → Int), c = coeffs cal → (∀ i : Fin 32, b i = (cal[i].toNat : Int)) →
    c.t1 = b 0 + 256 * b 1 ∧
    c.t2 = signedOf 16 (b 2 + 256 * b 3) ∧
    c.t3 = signedOf 16 (b 4 + 256 * b 5) ∧
    c.p1 = b 6 + 256 * b 7 ∧
    c.p2 = signedOf 16 (b 8 + 256 * b 9) ∧
    c.p3 = signedOf 16 (b 10 + 256 * b 11) ∧
    c.p4 = signedOf 16 (b 12 + 256 * b 13) ∧
    c.p5 = signedOf 16 (b 14 + 256 * b 15) ∧
    c.p6 = signedOf 16 (b 16 + 256 * b 17) ∧
    c.p7 = signedOf 16 (b 18 + 256 * b 19) ∧
    c.p8 = signedOf 16 (b 20 + 256 * b 21) ∧
    c.p9 = signedOf 16 (b 22 + 256 * b 23) ∧
    c.h1 = b 24 ∧
    c.h2 = signedOf 16 (b 25 + 256 * b 26) ∧
    c.h3 = b 27 ∧
    c.h4 = signedOf 8 (b 28) * 16 + b 29 % 16 ∧
    c.h5 = signedOf 8 (b 30) * 16 + b 29 / 16 ∧
    c.h6 = signedOf 8 (b 31) ∧
    (∀ x ∈ [c.t1, c.p1], 0 ≤ x ∧ x ≤ 65535) ∧
    (∀ x ∈ [c.t2, c.t3, c.p2, c.p3, c.p4, c.p5, c.p6, c.p7, c.p8, c.p9, c.h2], -32768 ≤ x ∧ x ≤ 32767) ∧
    (∀ x ∈ [c.h1, c.h3], 0 ≤ x ∧ x ≤ 255) ∧
    (∀ x ∈ [c.h4, c.h5], -2048 ≤ x ∧ x ≤ 2047) ∧
    (-128 ≤ c.h6 ∧ c.h6 ≤ 127)

/-! ## Compensation -/

/-- 42_compensation.md R191 and R193: on every sample and table, no operation's exact result leaves the 32-bit range exactly
when the overflow indication is 0, and then t_fine and the temperature are the exact formula's. -/
def Obligations.TemperatureIsExactWithoutOverflow : Prop :=
  ∀ (adcT : BitVec 20) (cal : Vector Byte 32) (c : Coeffs) (r : TempResult)
    (a m1 var1 b m2 m3 var2 tFine m4 : Int), c = coeffs cal → r = tempFormula adcT c →
    a = (adcT.toNat : Int) / 2 ^ 3 - c.t1 * 2 → m1 = a * c.t2 → var1 = m1 / 2 ^ 11 →
    b = (adcT.toNat : Int) / 2 ^ 4 - c.t1 → m2 = b * b → m3 = m2 / 2 ^ 12 * c.t3 → var2 = m3 / 2 ^ 14 →
    tFine = var1 + var2 → m4 = tFine * 5 →
    ((r.tOut.ovf = false) ↔ (∀ e ∈ [a, m1, b, m2, m3, tFine, m4, m4 + 128], Fits 32 e)) ∧
    (r.tOut.ovf = false → r.tFine.val.toInt = tFine ∧ r.tOut.val.toInt = (m4 + 128) / 2 ^ 8)

/-- COMPT on a valid sample (42_compensation.md R190, R192, R193). -/
def Obligations.ComptComputesTheTemperature : Prop :=
  ∀ (s : State) (tu : TempUnit) (r : TempResult), s.phase = .idle → GoesOn s.oracle →
    s.regs.ready = true → s.regs.rawValid = true → r = tempFormula s.regs.adcT (coeffs s.regs.cal) →
    exec (.compt tu) s = .next { s with
      regs := { s.regs with
        tFine := r.tFine.val, tOut := r.tOut.val, tfineValid := true, tValid := true, tunit := tu
        err := .ok, aovf := r.tOut.ovf, aovfAny := s.regs.aovfAny || r.tOut.ovf } }

/-- 42_compensation.md R185: the dependency enforcer. A failing check clears the command's own VALID bit only. -/
def Obligations.DependencyEnforcer : Prop :=
  ∀ (s : State) (tu : TempUnit) (pu : BitVec 4) (code : ErrorCode), s.phase = .idle → GoesOn s.oracle →
    ((s.regs.ready = false ∧ code = .notInitialized) ∨
        (s.regs.ready = true ∧ s.regs.rawValid = false ∧ code = .dependencyViolation) →
      exec (.compt tu) s = .next { s with regs := { s.regs with tValid := false, err := code, aovf := false } }) ∧
    ((s.regs.ready = false ∧ code = .notInitialized) ∨
        (s.regs.ready = true ∧ (s.regs.rawValid = false ∨ s.regs.tfineValid = false) ∧ code = .dependencyViolation) →
      exec (.compp pu) s = .next { s with regs := { s.regs with pValid := false, err := code, aovf := false } } ∧
      exec .comph s = .next { s with regs := { s.regs with hValid := false, err := code, aovf := false } })

/-- 42_compensation.md R202 to R204: when no operation's exact result leaves the 64-bit range, `pres_formula` is the exact
formula: DIV0 when the denominator is 0, else the quotient truncated toward zero, and the low 32 bits of the result with
the narrowing's overflow. And its overflow indication is 0 exactly when every exact result fits (R180): with DIV0 those of
the operations before the guard, `before` (R205), else those after it, `behind`, and the narrowing too. -/
def Obligations.PressureIsExactWithoutOverflow : Prop :=
  ∀ (adcP : BitVec 20) (tf : BitVec 32) (cal : Vector Byte 32) (c : Coeffs)
    (v q1 a2 q2 q3 b2 q4 var2 q6 q8 q9 var1 q10 q11 den p q12 q13 q14 p2 s q15 q16 q17 q18 q19 q21 res : Int)
    (before behind : List Int),
    c = coeffs cal →
    v = tf.toInt - 128000 → q1 = v * v → a2 = q1 * c.p6 → q2 = v * c.p5 → q3 = q2 * 2 ^ 17 → b2 = a2 + q3 →
    q4 = c.p4 * 2 ^ 35 → var2 = b2 + q4 → q6 = q1 * c.p3 → q8 = v * c.p2 → q9 = q8 * 2 ^ 12 →
    var1 = q6 / 2 ^ 8 + q9 → q10 = 2 ^ 47 + var1 → q11 = q10 * c.p1 → den = q11 / 2 ^ 33 →
    p = 1048576 - (adcP.toNat : Int) → q12 = p * 2 ^ 31 → q13 = q12 - var2 → q14 = q13 * 3125 → p2 = q14.tdiv den →
    s = p2 / 2 ^ 13 → q15 = c.p9 * s → q16 = q15 * s → q17 = c.p8 * p2 → q18 = p2 + q16 / 2 ^ 25 →
    q19 = q18 + q17 / 2 ^ 19 → q21 = c.p7 * 2 ^ 4 → res = q19 / 2 ^ 8 + q21 →
    before = [v, q1, a2, q2, q3, b2, q4, var2, q6, q8, q9, var1, q10, q11] →
    behind = [p, q12, q13, q14, p2, q15, q16, q17, q18, q19, q21, res] →
    (∀ o : Bool, presFormula adcP tf c = .div0 o → (o = false ↔ ∀ e ∈ before, Fits 64 e)) ∧
    (∀ r : Checked 32, presFormula adcP tf c = .pressure r →
      (r.ovf = false ↔ (∀ e ∈ before ++ behind, Fits 64 e) ∧ 0 ≤ res ∧ res < 2 ^ 32)) ∧
    ((∀ e ∈ before, Fits 64 e) → den = 0 → presFormula adcP tf c = .div0 false) ∧
    ((∀ e ∈ before ++ behind, Fits 64 e) → den ≠ 0 →
      presFormula adcP tf c =
        .pressure { val := .ofInt 32 res, ovf := decide (res < 0 ∨ 2 ^ 32 ≤ res) })

/-- COMPP on a valid sample and t_fine (42_compensation.md R200, R203 to R205): the pressure, or DivideByZero with P_OUT
unchanged and PUNIT recorded. -/
def Obligations.ComppComputesThePressure : Prop :=
  ∀ (s : State) (pu : BitVec 4), s.phase = .idle → GoesOn s.oracle →
    s.regs.ready = true → s.regs.rawValid = true → s.regs.tfineValid = true →
    (∀ p : Checked 32, presFormula s.regs.adcP s.regs.tFine (coeffs s.regs.cal) = .pressure p →
      exec (.compp pu) s = .next { s with
        regs := { s.regs with
          pOut := p.val, pValid := true, punit := pu, err := .ok, aovf := p.ovf, aovfAny := s.regs.aovfAny || p.ovf } }) ∧
    (∀ o : Bool, presFormula s.regs.adcP s.regs.tFine (coeffs s.regs.cal) = .div0 o →
      exec (.compp pu) s = .next { s with
        regs := { s.regs with
          pValid := false, punit := pu, err := .divideByZero, aovf := o, aovfAny := s.regs.aovfAny || o } })

/-- A table whose P1 is 0 always fires the divide-by-zero guard (42_compensation.md R203, and R206's corner case), whatever
the sample and t_fine. -/
def Obligations.ZeroP1DividesByZero : Prop :=
  ∀ (s t : State) (pu : BitVec 4), s.phase = .idle → GoesOn s.oracle →
    s.regs.ready = true → s.regs.rawValid = true → s.regs.tfineValid = true →
    s.regs.cal[6] = 0#8 → s.regs.cal[7] = 0#8 → exec (.compp pu) s = .next t →
    t.regs.err = .divideByZero ∧ t.regs.pValid = false ∧ t.regs.pOut = s.regs.pOut ∧ t.regs.punit = pu

/-- 42_compensation.md R216 to R218: no operation's exact result leaves the 32-bit range exactly when the overflow
indication is 0, and then `hum_formula` is the exact formula, clamped and shifted. -/
def Obligations.HumidityIsExactWithoutOverflow : Prop :=
  ∀ (adcH : BitVec 16) (tf : BitVec 32) (cal : Vector Byte 32) (c : Coeffs)
    (v a1 a2 a3 a4 a5 a6 b1 c1 c3 d1 d3 e1 e2 m s f1 f3 x : Int), c = coeffs cal →
    v = tf.toInt - 76800 → a1 = (adcH.toNat : Int) * 2 ^ 14 → a2 = c.h4 * 2 ^ 20 → a3 = a1 - a2 → a4 = c.h5 * v →
    a5 = a3 - a4 → a6 = a5 + 16384 → b1 = v * c.h6 → c1 = v * c.h3 → c3 = c1 / 2 ^ 11 + 32768 →
    d1 = b1 / 2 ^ 10 * c3 → d3 = d1 / 2 ^ 10 + 2097152 → e1 = d3 * c.h2 → e2 = e1 + 8192 →
    m = a6 / 2 ^ 15 * (e2 / 2 ^ 14) → s = m / 2 ^ 15 → f1 = s * s → f3 = f1 / 2 ^ 7 * c.h1 → x = m - f3 / 2 ^ 4 →
    ((humFormula adcH tf c).ovf = false ↔
      ∀ e ∈ [v, a1, a2, a3, a4, a5, a6, b1, c1, c3, d1, d3, e1, e2, m, f1, f3, x], Fits 32 e) ∧
    ((humFormula adcH tf c).ovf = false →
      humFormula adcH tf c = { val := .ofInt 32 (min (max x 0) 419430400 / 2 ^ 12), ovf := false })

/-- 42_compensation.md R217: whatever the sample, t_fine and table, H_OUT lies in [0, 102400], and it is the clamped
polynomial shifted right by 12. -/
def Obligations.HumidityIsClamped : Prop :=
  ∀ (adcH : BitVec 16) (tf : BitVec 32) (cal : Vector Byte 32) (v : Int),
    v = (humPolynomial adcH tf (coeffs cal)).val.toInt →
    ((humFormula adcH tf (coeffs cal)).val.toNat : Int) = (if v < 0 then 0 else if 419430400 < v then 419430400 else v) / 2 ^ 12 ∧
    (humFormula adcH tf (coeffs cal)).val.toNat ≤ 102400 ∧
    (humFormula adcH tf (coeffs cal)).ovf = (humPolynomial adcH tf (coeffs cal)).ovf

/-- COMPH on a valid sample and t_fine (42_compensation.md R215). -/
def Obligations.ComphComputesTheHumidity : Prop :=
  ∀ (s : State) (h : Checked 32), s.phase = .idle → GoesOn s.oracle →
    s.regs.ready = true → s.regs.rawValid = true → s.regs.tfineValid = true →
    h = humFormula s.regs.adcH s.regs.tFine (coeffs s.regs.cal) →
    exec .comph s = .next { s with
      regs := { s.regs with
        hOut := h.val, hValid := true, err := .ok, aovf := h.ovf, aovfAny := s.regs.aovfAny || h.ovf } }

/-- The frame of the compensation commands on any outcome (42_compensation.md R193, R206, R218): no transaction, nothing on
the sensor, the raw sample and the other results untouched. -/
def Obligations.CompensationFrame : Prop :=
  ∀ (s t : State) (i : Instr) (tu : TempUnit) (pu : BitVec 4),
    (i = .compt tu ∨ i = .compp pu ∨ i = .comph → exec i s = .next t →
      t.sensor = s.sensor ∧ t.bus = s.bus ∧ t.oracle = s.oracle) ∧
    (exec (.compt tu) s = .next t →
      t.regs = { s.regs with tFine := t.regs.tFine, tOut := t.regs.tOut, tfineValid := t.regs.tfineValid,
                             tValid := t.regs.tValid, tunit := t.regs.tunit, err := t.regs.err, aovf := t.regs.aovf,
                             aovfAny := t.regs.aovfAny }) ∧
    (exec (.compp pu) s = .next t →
      t.regs = { s.regs with pOut := t.regs.pOut, pValid := t.regs.pValid, punit := t.regs.punit, err := t.regs.err,
                             aovf := t.regs.aovf, aovfAny := t.regs.aovfAny }) ∧
    (exec .comph s = .next t →
      t.regs = { s.regs with hOut := t.regs.hOut, hValid := t.regs.hValid, err := t.regs.err, aovf := t.regs.aovf,
                             aovfAny := t.regs.aovfAny })

/-! ## Orchestration -/

/-- READT's success (43_orchestration.md R243). -/
def Obligations.ReadtReadsTheTemperature : Prop :=
  ∀ (s : State) (tu : TempUnit) (w : List Byte) (b0 b1 b2 b3 b4 b5 b6 b7 : Byte) (rest : List Reply) (S : Regs)
    (r : TempResult),
    BurstAnswered s w b0 b1 b2 b3 b4 b5 b6 b7 rest → S = acquired s.regs b0 b1 b2 b3 b4 b5 b6 b7 →
    r = tempFormula S.adcT (coeffs s.regs.cal) →
    exec (.readt tu) s = .next (afterBurst s
      { S with tFine := r.tFine.val, tOut := r.tOut.val, tfineValid := true, tValid := true, tunit := tu
               err := .ok, aovf := r.tOut.ovf, aovfAny := s.regs.aovfAny || r.tOut.ovf } rest)

/-- READP's success and its divide by zero (43_orchestration.md R245): T_VALID is left 1, TUNIT is not written. -/
def Obligations.ReadpReadsThePressure : Prop :=
  ∀ (s : State) (pu : BitVec 4) (w : List Byte) (b0 b1 b2 b3 b4 b5 b6 b7 : Byte) (rest : List Reply) (S T : Regs)
    (r : TempResult),
    BurstAnswered s w b0 b1 b2 b3 b4 b5 b6 b7 rest → S = acquired s.regs b0 b1 b2 b3 b4 b5 b6 b7 →
    r = tempFormula S.adcT (coeffs s.regs.cal) →
    T = { S with tFine := r.tFine.val, tOut := r.tOut.val, tfineValid := true, tValid := true, punit := pu } →
    (∀ p : Checked 32, presFormula S.adcP r.tFine.val (coeffs s.regs.cal) = .pressure p →
      exec (.readp pu) s = .next (afterBurst s
        { T with pOut := p.val, pValid := true, err := .ok, aovf := r.tOut.ovf || p.ovf
                 aovfAny := s.regs.aovfAny || (r.tOut.ovf || p.ovf) } rest)) ∧
    (∀ o : Bool, presFormula S.adcP r.tFine.val (coeffs s.regs.cal) = .div0 o →
      exec (.readp pu) s = .next (afterBurst s
        { T with pValid := false, err := .divideByZero, aovf := r.tOut.ovf || o
                 aovfAny := s.regs.aovfAny || (r.tOut.ovf || o) } rest))

/-- READH's success (43_orchestration.md R247): T_VALID is left 1, TUNIT is not written. -/
def Obligations.ReadhReadsTheHumidity : Prop :=
  ∀ (s : State) (w : List Byte) (b0 b1 b2 b3 b4 b5 b6 b7 : Byte) (rest : List Reply) (S : Regs)
    (r : TempResult) (h : Checked 32),
    BurstAnswered s w b0 b1 b2 b3 b4 b5 b6 b7 rest → S = acquired s.regs b0 b1 b2 b3 b4 b5 b6 b7 →
    r = tempFormula S.adcT (coeffs s.regs.cal) → h = humFormula S.adcH r.tFine.val (coeffs s.regs.cal) →
    exec .readh s = .next (afterBurst s
      { S with tFine := r.tFine.val, tOut := r.tOut.val, tfineValid := true, tValid := true
               hOut := h.val, hValid := true, err := .ok, aovf := r.tOut.ovf || h.ovf
               aovfAny := s.regs.aovfAny || (r.tOut.ovf || h.ovf) } rest)

/-- READALL (43_orchestration.md R249, R250): all three results, and a pressure divide by zero that stops neither the
temperature nor the humidity. -/
def Obligations.ReadallReadsAllThree : Prop :=
  ∀ (s : State) (tu : TempUnit) (pu : BitVec 4) (w : List Byte) (b0 b1 b2 b3 b4 b5 b6 b7 : Byte) (rest : List Reply)
    (S T : Regs) (r : TempResult) (h : Checked 32),
    BurstAnswered s w b0 b1 b2 b3 b4 b5 b6 b7 rest → S = acquired s.regs b0 b1 b2 b3 b4 b5 b6 b7 →
    r = tempFormula S.adcT (coeffs s.regs.cal) → h = humFormula S.adcH r.tFine.val (coeffs s.regs.cal) →
    T = { S with tFine := r.tFine.val, tOut := r.tOut.val, tfineValid := true, tValid := true, tunit := tu, punit := pu
                 hOut := h.val, hValid := true } →
    (∀ p : Checked 32, presFormula S.adcP r.tFine.val (coeffs s.regs.cal) = .pressure p →
      exec (.readall tu pu) s = .next (afterBurst s
        { T with pOut := p.val, pValid := true, err := .ok, aovf := r.tOut.ovf || p.ovf || h.ovf
                 aovfAny := s.regs.aovfAny || (r.tOut.ovf || p.ovf || h.ovf) } rest)) ∧
    (∀ o : Bool, presFormula S.adcP r.tFine.val (coeffs s.regs.cal) = .div0 o →
      exec (.readall tu pu) s = .next (afterBurst s
        { T with pValid := false, err := .divideByZero, aovf := r.tOut.ovf || o || h.ovf
                 aovfAny := s.regs.aovfAny || (r.tOut.ovf || o || h.ovf) } rest))

/-- 43_orchestration.md R252: from an idle state, READALL and the sequence READRAW, COMPT, COMPP, COMPH with the same answers
end in states that agree on everything but ERR and AOVF, whether the acquisition succeeds or fails. -/
def Obligations.ReadallEqualsTheSequence : Prop :=
  ∀ (s s1 s2 s3 s4 t : State) (tu : TempUnit) (pu : BitVec 4), s.phase = .idle →
    exec .readraw s = .next s1 → s1.phase = .idle → GoesOn s1.oracle →
    exec (.compt tu) s1 = .next s2 → exec (.compp pu) s2 = .next s3 → exec .comph s3 = .next s4 →
    exec (.readall tu pu) s = .next t →
    t = { s4 with regs := { s4.regs with err := t.regs.err, aovf := t.regs.aovf } }

/-! ## The machine as a whole -/

/-- Every command leaves the parameters, the host's accesses and the words already read alone, sets OVR exactly when it
finds the block busy (10_state.md R24), and shows nothing of itself until it has committed (R22). -/
def Obligations.EveryCommandsFrame : Prop :=
  ∀ (s t : State) (i : Instr), exec i s = .next t →
    t.params = s.params ∧ t.inputs = s.inputs ∧ t.reads = s.reads ∧ t.ovr = (s.ovr || s.busy) ∧
    (t.busy = true → t.regs = s.regs)

/-- No step ends in a fault or a refusal: the block has no traps (60_exceptions.md R264), and every command, on every state
and every answer, commits or waits. -/
def Obligations.EveryStepGoesOn : Prop := ∀ s : State, ∃ t, step s = .next t

/-- 10_state.md R22: until the commit, the committed registers are those from before the command: a step that leaves the
block busy changes none of them. -/
def Obligations.NothingIsVisibleBeforeTheCommit : Prop :=
  ∀ s t : State, step s = .next t → t.busy = true → t.regs = s.regs

/-- The state after reset meets the invariant, under any legal parameters and in any environment. -/
def Obligations.ResetMeetsTheInvariant : Prop :=
  ∀ (p : Config.Params) (inputs : List Input) (oracle : List Reply), p.wellFormed = true →
    { State.resetWith p with inputs := inputs, oracle := oracle }.Inv

/-- Every step keeps the invariant: the shadow stays legal (40_configurator.md R132), the sampling invariants hold
(41_sampler.md R166), committed and staged, and the sensor's register space keeps its form. -/
def Obligations.EveryStepKeepsTheInvariant : Prop :=
  ∀ s t : State, s.Inv → step s = .next t → t.Inv

/-- 41_sampler.md R166, its three points, in every reachable state. -/
def Obligations.SamplingInvariantsHold : Prop :=
  ∀ s : State, Reachable s →
    (s.regs.rawValid = true → s.regs.ready = true) ∧
    (s.regs.tfineValid = true → s.regs.rawValid = true ∧
      s.regs.tFine = (tempFormula s.regs.adcT (coeffs s.regs.cal)).tFine.val) ∧
    (s.regs.pValid = true ∨ s.regs.hValid = true → s.regs.tfineValid = true) ∧
    (s.regs.pValid = true → ∃ o, presFormula s.regs.adcP s.regs.tFine (coeffs s.regs.cal) =
      .pressure { val := s.regs.pOut, ovf := o }) ∧
    (s.regs.hValid = true → s.regs.hOut = (humFormula s.regs.adcH s.regs.tFine (coeffs s.regs.cal)).val)

/-- 40_configurator.md R132, in every reachable state: the shadow satisfies `conf_ok`, and its mode field is never 10. -/
def Obligations.ShadowStaysLegal : Prop :=
  ∀ s : State, Reachable s →
    confOk s.regs.ctrlHum s.regs.ctrlMeas s.regs.config = true ∧ s.regs.ctrlMeas.extractLsb' 0 2 ≠ 2#2

/-- 60_exceptions.md R268, 10_state.md R38 and R39: in a state that meets the invariant, a step that is not the platform's
reset leaves READY once set with its table, and leaves AOVF_ANY and OVR once set. -/
def Obligations.OnlyResetLeavesReady : Prop :=
  ∀ s t : State, s.Inv → step s = .next t → (s.canMove = true ∨ s.inputs.head? ≠ some .reset) →
    (s.regs.ready = true → t.regs.ready = true ∧ t.regs.cal = s.regs.cal) ∧
    (s.regs.aovfAny = true → t.regs.aovfAny = true) ∧
    (s.ovr = true → t.ovr = true)

/-- 70_reset_and_hazards.md R290 and R292, with 10_state.md R44: on the platform's turn a reset puts every element of `S` at
its reset value in any phase and abandons the running command; a write then outstanding leaves its register unknown; the
sensor is not reset (R293). -/
def Obligations.ResetAbandonsTheCommand : Prop :=
  ∀ (s t : State) (rest : List Input), s.canMove = false → s.inputs = .reset :: rest → step s = .next t →
    t.regs = Regs.reset s.params ∧ t.ovr = false ∧ t.busy = false ∧ t.params = s.params ∧ t.bus = s.bus ∧
    (∀ run a v, s.phase = .waiting run (.write a v) →
      t.sensor = s.sensor.forget a.toNat) ∧
    ((∀ run a v, s.phase ≠ .waiting run (.write a v)) → t.sensor = s.sensor)

/-- 10_state.md R44 and R27: the value of every element after reset, with the parameters at their defaults (log 5). -/
def Obligations.ResetValues : Prop :=
  State.reset.busy = false ∧ State.reset.ovr = false ∧
  State.reset.hostRegister 0x01#8 = 0#32 ∧ State.reset.hostRegister 0x03#8 = 0x000125A0#32 ∧
  ∀ index : BitVec 8, index ≠ 0x03#8 → State.reset.hostRegister index = 0#32

/-- 70_reset_and_hazards.md R304: while a transaction never answers, no number of steps changes the phase or the registers,
unless the platform resets the block. -/
def Obligations.UnansweredTransactionHangs : Prop :=
  ∀ (n : Nat) (s t : State) (run : Run) (txn : Txn), s.phase = .waiting run txn → s.oracle = [] → .reset ∉ s.inputs →
    Sys2Proof.core.run n s = .next t → t.phase = .waiting run txn ∧ t.regs = s.regs ∧ t.bus = s.bus

/-- The grain of the step does not matter (model's convention, log 1): with the host silent, a block that lets `wait` entries
pass reaches, some number of steps on, the state it would reach at once without them, but for `wait` entries left over. -/
def Obligations.WaitsDelayButDoNotChange : Prop :=
  ∀ s : State, s.inputs = [] → ∃ (n : Nat) (t : State), Sys2Proof.core.run n s = .next t ∧
    { t with oracle := t.oracle.filter (· != Reply.wait) } =
      { s with oracle := s.oracle.filter (· != Reply.wait) }.settle

/-! ## Presentation -/

/-- 42_compensation.md R231's default: a presented value is the rational rounded to nearest, ties to even. The format's 53
significant bits and least exponent of -1074 are taken from outside the spec (log 9, PRESUMED). The unit `2 ^ k` is the
format's at `q`: `q` lies in the binade of 53-bit numbers with that unit, or below the least one. -/
def Obligations.Binary64RoundsToNearestEven : Prop :=
  ∀ q : Rat, ∃ m k : Int, -1074 ≤ k ∧ (k = -1074 ∨ (2 : Rat) ^ 52 * 2 ^ k ≤ |q|) ∧ |q| < (2 : Rat) ^ 53 * 2 ^ k ∧
    |m| ≤ 2 ^ 53 ∧ (k = -1074 ∨ 2 ^ 52 ≤ |m|) ∧
    roundBinary64 q = m * (2 : Rat) ^ k ∧ |roundBinary64 q - q| ≤ (2 : Rat) ^ k / 2 ∧
    (|roundBinary64 q - q| = (2 : Rat) ^ k / 2 → m % 2 = 0)

/-- 42_compensation.md R232 to R235: NaN exactly where the VALID bit is 0; under any rounding, each written operation rounded
in the written order (R231); and without rounding the exact expressions, pressure by the unit table. That a divisor literal
is itself rounded before it divides is taken from outside the spec (log 9, PRESUMED). -/
def Obligations.PresentationIsExactWithoutRounding : Prop :=
  ∀ (S : Regs) (f : Rat → Rat),
    (presentTemperature f S = none ↔ S.tValid = false) ∧
    (presentPressure f S = none ↔ S.pValid = false) ∧
    (presentHumidity f S = none ↔ S.hValid = false) ∧
    (S.tValid = true → S.tunit = .celsius →
      presentTemperature f S = some (f ((S.tOut.toInt : Rat) / 100)) ∧
      presentTemperature id S = some ((S.tOut.toInt : Rat) / 100)) ∧
    (S.tValid = true → S.tunit = .fahrenheit →
      presentTemperature f S = some (f (f (f (f ((S.tOut.toInt : Rat) / 100) * 9) / 5) + 32)) ∧
      presentTemperature id S = some ((S.tOut.toInt : Rat) / 100 * 9 / 5 + 32)) ∧
    (S.hValid = true →
      presentHumidity f S = some (f ((S.hOut.toNat : Rat) / 1024)) ∧
      presentHumidity id S = some ((S.hOut.toNat : Rat) / 1024)) ∧
    (S.pValid = true → ∃ d : Rat, d ≠ 0 ∧ presentPressure id S = some ((S.pOut.toNat : Rat) / 256 / d) ∧
      (S.punit = 0#4 ∨ S.punit = 6#4 ∨ 8 ≤ S.punit.toNat →
        d = 1 ∧ presentPressure f S = some (f ((S.pOut.toNat : Rat) / 256))) ∧
      (¬(S.punit = 0#4 ∨ S.punit = 6#4 ∨ 8 ≤ S.punit.toNat) →
        presentPressure f S = some (f (f ((S.pOut.toNat : Rat) / 256) / f d))) ∧
      (S.punit = 1#4 → d = 100) ∧ (S.punit = 2#4 → d * 10000000000 = 33863752577878) ∧
      (S.punit = 3#4 → d * 100000000 = 10132499766353) ∧ (S.punit = 4#4 → d = 100000) ∧
      (S.punit = 5#4 → d * 100000000000 = 13332236534674) ∧ (S.punit = 7#4 → d * 1000000000 = 6894744825494))
end

