-- ==== Sys2Proof/Laws/Arith.lean ====
section
/-! SUPPORT. The checked arithmetic (42_compensation.md R180 to R182): what an operation's value and overflow indication
are, and the relation `Checked.Tracks`, "free of overflow exactly when `P` holds, and then exactly this integer", which
the proofs about a formula carry along it. -/

namespace Sys2Proof.Machine

theorem toInt_ofInt_eq_iff {w : Nat} (hw : 0 < w) (e : Int) : (BitVec.ofInt w e).toInt = e ↔ Fits w e := by
  obtain ⟨k, rfl⟩ : ∃ k, w = k + 1 := ⟨w - 1, by omega⟩
  have hp : (0 : Int) < 2 ^ k := by positivity
  have h2 : ((2 ^ (k + 1) : Nat) : Int) = 2 * 2 ^ k := by push_cast; ring
  simp only [Fits, BitVec.toInt_ofInt, Nat.add_sub_cancel]
  constructor
  · intro h
    have hl := Int.le_bmod (x := e) (m := 2 ^ (k + 1)) (by positivity)
    have hu := Int.bmod_lt (x := e) (m := 2 ^ (k + 1)) (by positivity)
    rw [h, h2] at hl hu
    omega
  · intro ⟨hl, hu⟩
    exact Int.bmod_eq_of_le (by rw [h2]; omega) (by rw [h2]; omega)

@[simp] theorem Checked.lit_ovf {w : Nat} (x : Int) : (Checked.lit x : Checked w).ovf = false := rfl

theorem Checked.ofExact_ovf {w : Nat} (hw : 0 < w) (e : Int) (o : Bool) :
    (Checked.ofExact e o : Checked w).ovf = false ↔ o = false ∧ Fits w e := by
  simp only [Checked.ofExact, Bool.or_eq_false_iff, bne_eq_false_iff_eq, toInt_ofInt_eq_iff hw]

/-- The number is free of overflow exactly when `P` holds, and then it is exactly `e`. Formulas are followed with it one
operation at a time: `P` collects the ranges of the exact intermediate results. -/
structure Checked.Tracks {w : Nat} (a : Checked w) (e : Int) (P : Prop) : Prop where
  clear : a.ovf = false ↔ P
  exact : a.ovf = false → a.val.toInt = e

theorem Checked.lit_tracks {w : Nat} (hw : 0 < w) {x : Int} (h : Fits w x) : (Checked.lit x : Checked w).Tracks x True :=
  ⟨by simp, fun _ => (toInt_ofInt_eq_iff hw x).2 h⟩

theorem Checked.ofExact_tracks {w : Nat} (hw : 0 < w) {e e' : Int} {o : Bool} {P : Prop} (ho : o = false ↔ P)
    (he : o = false → e = e') : (Checked.ofExact e o : Checked w).Tracks e' (P ∧ Fits w e') where
  clear := by
    rw [Checked.ofExact_ovf hw, ho]
    exact and_congr_right fun hp => by rw [he (ho.2 hp)]
  exact h := by
    obtain ⟨ho', hf⟩ := (Checked.ofExact_ovf hw e o).1 h
    rw [← he ho']
    exact (toInt_ofInt_eq_iff hw e).2 hf

section
variable {w : Nat} {a b : Checked w} {x y : Int} {P Q : Prop}

theorem Checked.Tracks.both (ha : a.Tracks x P) (hb : b.Tracks y Q) : (a.ovf || b.ovf) = false ↔ P ∧ Q := by
  rw [Bool.or_eq_false_iff, ha.clear, hb.clear]

theorem Checked.Tracks.add (hw : 0 < w) (ha : a.Tracks x P) (hb : b.Tracks y Q) :
    (a.add b).Tracks (x + y) ((P ∧ Q) ∧ Fits w (x + y)) :=
  Checked.ofExact_tracks hw (ha.both hb) fun h => by
    rw [Bool.or_eq_false_iff] at h; rw [ha.exact h.1, hb.exact h.2]

theorem Checked.Tracks.sub (hw : 0 < w) (ha : a.Tracks x P) (hb : b.Tracks y Q) :
    (a.sub b).Tracks (x - y) ((P ∧ Q) ∧ Fits w (x - y)) :=
  Checked.ofExact_tracks hw (ha.both hb) fun h => by
    rw [Bool.or_eq_false_iff] at h; rw [ha.exact h.1, hb.exact h.2]

theorem Checked.Tracks.mul (hw : 0 < w) (ha : a.Tracks x P) (hb : b.Tracks y Q) :
    (a.mul b).Tracks (x * y) ((P ∧ Q) ∧ Fits w (x * y)) :=
  Checked.ofExact_tracks hw (ha.both hb) fun h => by
    rw [Bool.or_eq_false_iff] at h; rw [ha.exact h.1, hb.exact h.2]

theorem Checked.Tracks.div (hw : 0 < w) (ha : a.Tracks x P) (hb : b.Tracks y Q) :
    (a.div b).Tracks (x.tdiv y) ((P ∧ Q) ∧ Fits w (x.tdiv y)) :=
  Checked.ofExact_tracks hw (ha.both hb) fun h => by
    rw [Bool.or_eq_false_iff] at h; rw [ha.exact h.1, hb.exact h.2]

theorem Checked.Tracks.shl (hw : 0 < w) (ha : a.Tracks x P) (k : Nat) :
    (a.shl k).Tracks (x * 2 ^ k) (P ∧ Fits w (x * 2 ^ k)) :=
  Checked.ofExact_tracks hw ha.clear fun h => by rw [ha.exact h]

theorem Checked.Tracks.shr (ha : a.Tracks x P) (k : Nat) : (a.shr k).Tracks (x / 2 ^ k) P :=
  ⟨ha.clear, fun h => by
    rw [← ha.exact h]; simp [Checked.shr, BitVec.toInt_sshiftRight, Int.shiftRight_eq_div_pow]⟩

end

/-- The narrowing is free of overflow exactly when the final `p` is, and lies in the range of u32
(42_compensation.md R204). -/
theorem narrowPressure_ovf {p : Checked 64} {e : Int} {P : Prop} (h : p.Tracks e P) :
    (narrowPressure p).ovf = false ↔ P ∧ 0 ≤ e ∧ e < 2 ^ 32 := by
  unfold narrowPressure
  simp only [Bool.or_eq_false_iff, h.clear, decide_eq_false_iff_not, not_lt, not_le, and_assoc]
  exact and_congr_right fun hp => by rw [h.exact (h.clear.2 hp)]

/-! ## Coefficients: bytes and ranges -/

/-- The lower-numbered byte is the less significant (20_memory.md R65). -/
theorem le16_toNat (lo hi : Byte) : (le16 lo hi).toNat = lo.toNat + 256 * hi.toNat := by
  rw [show le16 lo hi = hi ++ lo from rfl, BitVec.toNat_append, ← Nat.shiftLeft_add_eq_or_of_lt lo.isLt, Nat.shiftLeft_eq]
  omega

theorem le16_toNat_lt (lo hi : Byte) : (le16 lo hi).toNat < 65536 := (le16 lo hi).isLt

theorem le16_toInt_range (lo hi : Byte) : -32768 ≤ (le16 lo hi).toInt ∧ (le16 lo hi).toInt < 32768 := by
  have h := BitVec.le_two_mul_toInt (x := le16 lo hi)
  have h' := BitVec.two_mul_toInt_lt (x := le16 lo hi)
  omega

theorem sext12_range (hi : Byte) (n : BitVec 4) : -2048 ≤ sext12 hi n ∧ sext12 hi n < 2048 := by
  have h := BitVec.le_two_mul_toInt (x := hi)
  have h' := BitVec.two_mul_toInt_lt (x := hi)
  have hn := n.isLt
  unfold sext12
  omega

end Sys2Proof.Machine
end

