-- ==== Sys2Proof/Laws/Decode.lean ====
section
/-! SUPPORT. What decoding answers, and that it never answers an ill-formed command. -/

namespace Sys2Proof

/-- Decoding accepts exactly the words whose opcode is in the table, whose reserved bits are 0 and whose operands are
legal (30_encoding.md R100). -/
theorem decode_ok_iff (w : Word) (i : Instr) :
    decode w = .ok i ↔
      ∃ mask, reservedMask (opcodeOf w) = some mask ∧ fieldsOf w = some i ∧ w &&& mask = 0#32 ∧ i.wellFormed = true := by
  unfold decode
  split
  next mask j hm hf =>
    simp only [hm, hf, Option.some.injEq]
    split
    next h => simp [h]
    next h =>
      have h0 : w &&& mask = 0#32 := by simpa using h
      split
      next hj => simp only [Except.ok.injEq]; constructor
                 · rintro rfl; exact ⟨mask, rfl, rfl, h0, hj⟩
                 · rintro ⟨_, _, h, _, _⟩; exact h
      next hj => constructor
                 · intro h; cases h
                 · rintro ⟨_, _, rfl, _, h⟩; exact absurd h hj
  next hn => constructor
             · intro h; cases h
             · rintro ⟨mask, hm, hf, _, _⟩; exact absurd hf (hn mask i hm)

theorem decode_wellFormed {w : Word} {i : Instr} (h : decode w = .ok i) : i.wellFormed = true := by
  obtain ⟨_, _, _, _, h⟩ := (decode_ok_iff w i).1 h
  exact h

end Sys2Proof
end

