-- ==== Sys2Proof/Laws/Memory.lean ====
section
/-! SUPPORT. The sensor's register space: read after write, a write leaves every other address alone, and every operation
keeps the canonical form. -/

namespace Sys2Proof.Machine.Memory

theorem read_write_same (m : Memory) (a : Nat) (v : Byte) : (m.write a v).read a = some v := by
  induction m with
  | nil => simp [write, read]
  | cons c m ih =>
    simp only [write]
    split
    · simp [read]
    · split <;> simp_all [read]

theorem read_write_other (m : Memory) (a b : Nat) (v : Byte) (h : b ≠ a) : (m.write a v).read b = m.read b := by
  induction m with
  | nil => simp [write, read, h]
  | cons c m ih =>
    simp only [write]
    split
    · simp [read, h]
    · split
      · simp_all [read]
      · simp [read, ih]

theorem read_forget_other (m : Memory) (a b : Nat) (h : b ≠ a) : (m.forget a).read b = m.read b := by
  induction m with
  | nil => rfl
  | cons c m ih =>
    simp only [forget]
    split
    · simp_all [read]
    · simp [read, ih]

/-- An address below every listed one is unknown. -/
theorem read_of_lt (m : Memory) (a : Nat) (h : ∀ c ∈ m, a < c.1) : m.read a = none := by
  induction m with
  | nil => rfl
  | cons c m ih =>
    have hc := h c (by simp)
    simp [read, hc.ne, ih fun d hd => h d (by simp [hd])]

theorem read_forget_same (m : Memory) (a : Nat) (h : m.wf) : (m.forget a).read a = none := by
  induction m with
  | nil => rfl
  | cons c m ih =>
    obtain ⟨hp, hb⟩ := h
    rw [List.pairwise_cons] at hp
    simp only [forget]
    split
    next e => exact read_of_lt m a fun d hd => e ▸ hp.1 d hd
    next e => simp [read, e, ih ⟨hp.2, fun d hd => hb d (by simp [hd])⟩]

theorem mem_write {m : Memory} {a : Nat} {v : Byte} {c : Host.Cell} (h : c ∈ m.write a v) : c = (a, v) ∨ c ∈ m := by
  induction m with
  | nil => simpa [write] using h
  | cons d m ih =>
    simp only [write] at h
    split at h
    · simpa using h
    · split at h
      · simp only [List.mem_cons] at h ⊢; tauto
      · simp only [List.mem_cons] at h ⊢
        rcases h with h | h
        · tauto
        · rcases ih h with h | h <;> tauto

theorem mem_forget {m : Memory} {a : Nat} {c : Host.Cell} (h : c ∈ m.forget a) : c ∈ m := by
  induction m with
  | nil => exact h
  | cons d m ih =>
    simp only [forget] at h
    split at h
    · simp [h]
    · simp only [List.mem_cons] at h ⊢
      exact h.imp_right ih

theorem write_wf (m : Memory) (a : Nat) (v : Byte) (h : m.wf) (ha : a < 256) : (m.write a v).wf := by
  refine ⟨?_, fun c hc => ?_⟩
  · obtain ⟨hp, -⟩ := h
    induction m with
    | nil => simp [write]
    | cons d m ih =>
      rw [List.pairwise_cons] at hp
      simp only [write]
      split
      next e =>
        exact List.pairwise_cons.2 ⟨fun c hc => by
          rcases List.mem_cons.1 hc with rfl | hc
          · exact e
          · exact e.trans (hp.1 c hc), List.pairwise_cons.2 hp⟩
      · split
        next e => exact List.pairwise_cons.2 ⟨fun c hc => e ▸ hp.1 c hc, hp.2⟩
        next e1 e2 =>
          refine List.pairwise_cons.2 ⟨fun c hc => ?_, ih hp.2⟩
          rcases mem_write hc with rfl | hc
          · show d.1 < a; omega
          · exact hp.1 c hc
  · rcases mem_write hc with rfl | hc
    · exact ha
    · exact h.2 c hc

theorem forget_wf (m : Memory) (a : Nat) (h : m.wf) : (m.forget a).wf := by
  refine ⟨?_, fun c hc => h.2 c (mem_forget hc)⟩
  obtain ⟨hp, -⟩ := h
  induction m with
  | nil => exact hp
  | cons d m ih =>
    rw [List.pairwise_cons] at hp
    simp only [forget]
    split
    · exact hp.2
    · exact List.pairwise_cons.2 ⟨fun c hc => hp.1 c (mem_forget hc), ih hp.2⟩

end Sys2Proof.Machine.Memory

namespace Sys2Proof.Machine

/-- A transaction's end keeps the canonical form. -/
theorem Txn.effect_wf (txn : Txn) (answer : Option (List Byte)) (m : Memory) (h : m.wf) : (txn.effect answer m).wf := by
  cases txn with
  | read a n => exact h
  | write a v =>
    cases answer with
    | none => exact Memory.forget_wf m _ h
    | some b => exact Memory.write_wf m _ _ h a.isLt

/-- A read changes nothing, and a write only its own address. -/
theorem Txn.effect_other (txn : Txn) (answer : Option (List Byte)) (m : Memory) (b : Nat)
    (h : ∀ a v, txn = .write a v → b ≠ a.toNat) : (txn.effect answer m).read b = m.read b := by
  cases txn with
  | read a n => rfl
  | write a v =>
    cases answer with
    | none => exact Memory.read_forget_other m _ _ (h a v rfl)
    | some c => exact Memory.read_write_other m _ _ _ (h a v rfl)

end Sys2Proof.Machine
end

