-- ==== Sys2Proof/Laws/State.lean ====
section
/-! SUPPORT. One lemma per field per named update of the state, the run and the registers, each true by unfolding: later
proofs rewrite with these and never unfold a record update. -/

namespace Sys2Proof.Machine

/-! ## An issued transaction -/

@[simp] theorem State.take_issue_regs (s : State) (txn : Txn) (run : Run) : (s.take (.issue txn run)).regs = s.regs := rfl
@[simp] theorem State.take_issue_ovr (s : State) (txn : Txn) (run : Run) : (s.take (.issue txn run)).ovr = s.ovr := rfl
@[simp] theorem State.take_issue_phase (s : State) (txn : Txn) (run : Run) : (s.take (.issue txn run)).phase = .waiting run txn := rfl
@[simp] theorem State.take_issue_params (s : State) (txn : Txn) (run : Run) : (s.take (.issue txn run)).params = s.params := rfl
@[simp] theorem State.take_issue_inputs (s : State) (txn : Txn) (run : Run) : (s.take (.issue txn run)).inputs = s.inputs := rfl
@[simp] theorem State.take_issue_oracle (s : State) (txn : Txn) (run : Run) : (s.take (.issue txn run)).oracle = s.oracle := rfl
@[simp] theorem State.take_issue_sensor (s : State) (txn : Txn) (run : Run) : (s.take (.issue txn run)).sensor = s.sensor := rfl
@[simp] theorem State.take_issue_bus (s : State) (txn : Txn) (run : Run) : (s.take (.issue txn run)).bus = txn :: s.bus := rfl
@[simp] theorem State.take_issue_reads (s : State) (txn : Txn) (run : Run) : (s.take (.issue txn run)).reads = s.reads := rfl

/-! ## A command that has reached its finish -/

@[simp] theorem State.take_finish_regs (s : State) (code : ErrorCode) (run : Run) : (s.take (.finish code run)).regs = s.regs := rfl
@[simp] theorem State.take_finish_ovr (s : State) (code : ErrorCode) (run : Run) : (s.take (.finish code run)).ovr = s.ovr := rfl
@[simp] theorem State.take_finish_phase (s : State) (code : ErrorCode) (run : Run) : (s.take (.finish code run)).phase = .finishing run code := rfl
@[simp] theorem State.take_finish_params (s : State) (code : ErrorCode) (run : Run) : (s.take (.finish code run)).params = s.params := rfl
@[simp] theorem State.take_finish_inputs (s : State) (code : ErrorCode) (run : Run) : (s.take (.finish code run)).inputs = s.inputs := rfl
@[simp] theorem State.take_finish_oracle (s : State) (code : ErrorCode) (run : Run) : (s.take (.finish code run)).oracle = s.oracle := rfl
@[simp] theorem State.take_finish_sensor (s : State) (code : ErrorCode) (run : Run) : (s.take (.finish code run)).sensor = s.sensor := rfl
@[simp] theorem State.take_finish_bus (s : State) (code : ErrorCode) (run : Run) : (s.take (.finish code run)).bus = s.bus := rfl
@[simp] theorem State.take_finish_reads (s : State) (code : ErrorCode) (run : Run) : (s.take (.finish code run)).reads = s.reads := rfl

/-! ## The commit -/

@[simp] theorem State.commit_regs (s : State) (run : Run) (code : ErrorCode) : (s.commit run code).regs = run.staged.finished code := rfl
@[simp] theorem State.commit_ovr (s : State) (run : Run) (code : ErrorCode) : (s.commit run code).ovr = s.ovr := rfl
@[simp] theorem State.commit_phase (s : State) (run : Run) (code : ErrorCode) : (s.commit run code).phase = .idle := rfl
@[simp] theorem State.commit_params (s : State) (run : Run) (code : ErrorCode) : (s.commit run code).params = s.params := rfl
@[simp] theorem State.commit_inputs (s : State) (run : Run) (code : ErrorCode) : (s.commit run code).inputs = s.inputs := rfl
@[simp] theorem State.commit_oracle (s : State) (run : Run) (code : ErrorCode) : (s.commit run code).oracle = s.oracle := rfl
@[simp] theorem State.commit_sensor (s : State) (run : Run) (code : ErrorCode) : (s.commit run code).sensor = s.sensor := rfl
@[simp] theorem State.commit_bus (s : State) (run : Run) (code : ErrorCode) : (s.commit run code).bus = s.bus := rfl
@[simp] theorem State.commit_reads (s : State) (run : Run) (code : ErrorCode) : (s.commit run code).reads = s.reads := rfl

/-! ## A CMD write while busy -/

@[simp] theorem State.setOvr_regs (s : State) : (s.setOvr).regs = s.regs := rfl
@[simp] theorem State.setOvr_ovr (s : State) : (s.setOvr).ovr = true := rfl
@[simp] theorem State.setOvr_phase (s : State) : (s.setOvr).phase = s.phase := rfl
@[simp] theorem State.setOvr_params (s : State) : (s.setOvr).params = s.params := rfl
@[simp] theorem State.setOvr_inputs (s : State) : (s.setOvr).inputs = s.inputs := rfl
@[simp] theorem State.setOvr_oracle (s : State) : (s.setOvr).oracle = s.oracle := rfl
@[simp] theorem State.setOvr_sensor (s : State) : (s.setOvr).sensor = s.sensor := rfl
@[simp] theorem State.setOvr_bus (s : State) : (s.setOvr).bus = s.bus := rfl
@[simp] theorem State.setOvr_reads (s : State) : (s.setOvr).reads = s.reads := rfl

/-! ## A host read -/

@[simp] theorem State.hostRead_regs (s : State) (index : BitVec 8) : (s.hostRead index).regs = s.regs := rfl
@[simp] theorem State.hostRead_ovr (s : State) (index : BitVec 8) : (s.hostRead index).ovr = s.ovr := rfl
@[simp] theorem State.hostRead_phase (s : State) (index : BitVec 8) : (s.hostRead index).phase = s.phase := rfl
@[simp] theorem State.hostRead_params (s : State) (index : BitVec 8) : (s.hostRead index).params = s.params := rfl
@[simp] theorem State.hostRead_inputs (s : State) (index : BitVec 8) : (s.hostRead index).inputs = s.inputs := rfl
@[simp] theorem State.hostRead_oracle (s : State) (index : BitVec 8) : (s.hostRead index).oracle = s.oracle := rfl
@[simp] theorem State.hostRead_sensor (s : State) (index : BitVec 8) : (s.hostRead index).sensor = s.sensor := rfl
@[simp] theorem State.hostRead_bus (s : State) (index : BitVec 8) : (s.hostRead index).bus = s.bus := rfl
@[simp] theorem State.hostRead_reads (s : State) (index : BitVec 8) : (s.hostRead index).reads = (index, s.hostRegister index) :: s.reads := rfl

/-! ## The platform's reset -/

@[simp] theorem State.platformReset_regs (s : State) : (s.platformReset).regs = Regs.reset s.params := rfl
@[simp] theorem State.platformReset_ovr (s : State) : (s.platformReset).ovr = false := rfl
@[simp] theorem State.platformReset_phase (s : State) : (s.platformReset).phase = .idle := rfl
@[simp] theorem State.platformReset_params (s : State) : (s.platformReset).params = s.params := rfl
@[simp] theorem State.platformReset_inputs (s : State) : (s.platformReset).inputs = s.inputs := rfl
@[simp] theorem State.platformReset_oracle (s : State) : (s.platformReset).oracle = s.oracle := rfl
@[simp] theorem State.platformReset_bus (s : State) : (s.platformReset).bus = s.bus := rfl
@[simp] theorem State.platformReset_reads (s : State) : (s.platformReset).reads = s.reads := rfl

/-! ## The word placed as the host's next CMD write -/

@[simp] theorem State.withCommandWord_regs (s : State) (w : Word) : (s.withCommandWord w).regs = s.regs := rfl
@[simp] theorem State.withCommandWord_ovr (s : State) (w : Word) : (s.withCommandWord w).ovr = s.ovr := rfl
@[simp] theorem State.withCommandWord_phase (s : State) (w : Word) : (s.withCommandWord w).phase = .idle := rfl
@[simp] theorem State.withCommandWord_params (s : State) (w : Word) : (s.withCommandWord w).params = s.params := rfl
@[simp] theorem State.withCommandWord_inputs (s : State) (w : Word) : (s.withCommandWord w).inputs = .write 0#8 w :: s.inputs := rfl
@[simp] theorem State.withCommandWord_oracle (s : State) (w : Word) : (s.withCommandWord w).oracle = s.oracle := rfl
@[simp] theorem State.withCommandWord_sensor (s : State) (w : Word) : (s.withCommandWord w).sensor = s.sensor := rfl
@[simp] theorem State.withCommandWord_bus (s : State) (w : Word) : (s.withCommandWord w).bus = s.bus := rfl
@[simp] theorem State.withCommandWord_reads (s : State) (w : Word) : (s.withCommandWord w).reads = s.reads := rfl

/-! ## The run at acceptance -/

@[simp] theorem Run.start_command (c : Command) (S : Regs) : (Run.start c S).command = c := rfl
@[simp] theorem Run.start_index (c : Command) (S : Regs) : (Run.start c S).index = 0 := rfl
@[simp] theorem Run.start_staged (c : Command) (S : Regs) : (Run.start c S).staged = { S with aovf := false } := rfl
@[simp] theorem Run.start_got (c : Command) (S : Regs) : (Run.start c S).got = 0 := rfl
@[simp] theorem Run.start_buf (c : Command) (S : Regs) : (Run.start c S).buf = Vector.replicate 32 none := rfl

/-! ## An answered transaction -/

@[simp] theorem Run.answered_command (r : Run) : (r.answered).command = r.command := rfl
@[simp] theorem Run.answered_index (r : Run) : (r.answered).index = r.index + 1 := rfl
@[simp] theorem Run.answered_staged (r : Run) : (r.answered).staged = r.staged := rfl
@[simp] theorem Run.answered_got (r : Run) : (r.answered).got = r.got := rfl
@[simp] theorem Run.answered_buf (r : Run) : (r.answered).buf = r.buf := rfl

/-! ## A staged copy replaced -/

@[simp] theorem Run.stage_command (r : Run) (S : Regs) : (r.stage S).command = r.command := rfl
@[simp] theorem Run.stage_index (r : Run) (S : Regs) : (r.stage S).index = r.index := rfl
@[simp] theorem Run.stage_staged (r : Run) (S : Regs) : (r.stage S).staged = S := rfl
@[simp] theorem Run.stage_got (r : Run) (S : Regs) : (r.stage S).got = r.got := rfl
@[simp] theorem Run.stage_buf (r : Run) (S : Regs) : (r.stage S).buf = r.buf := rfl

/-! ## What finish writes -/

@[simp] theorem Regs.finished_ready (S : Regs) (code : ErrorCode) : (S.finished code).ready = S.ready := rfl
@[simp] theorem Regs.finished_err (S : Regs) (code : ErrorCode) : (S.finished code).err = code := rfl
@[simp] theorem Regs.finished_aovf (S : Regs) (code : ErrorCode) : (S.finished code).aovf = S.aovf := rfl
@[simp] theorem Regs.finished_aovfAny (S : Regs) (code : ErrorCode) : (S.finished code).aovfAny = (S.aovfAny || S.aovf) := rfl
@[simp] theorem Regs.finished_chipId (S : Regs) (code : ErrorCode) : (S.finished code).chipId = S.chipId := rfl
@[simp] theorem Regs.finished_ctrlHum (S : Regs) (code : ErrorCode) : (S.finished code).ctrlHum = S.ctrlHum := rfl
@[simp] theorem Regs.finished_ctrlMeas (S : Regs) (code : ErrorCode) : (S.finished code).ctrlMeas = S.ctrlMeas := rfl
@[simp] theorem Regs.finished_config (S : Regs) (code : ErrorCode) : (S.finished code).config = S.config := rfl
@[simp] theorem Regs.finished_cal (S : Regs) (code : ErrorCode) : (S.finished code).cal = S.cal := rfl
@[simp] theorem Regs.finished_adcP (S : Regs) (code : ErrorCode) : (S.finished code).adcP = S.adcP := rfl
@[simp] theorem Regs.finished_adcT (S : Regs) (code : ErrorCode) : (S.finished code).adcT = S.adcT := rfl
@[simp] theorem Regs.finished_adcH (S : Regs) (code : ErrorCode) : (S.finished code).adcH = S.adcH := rfl
@[simp] theorem Regs.finished_sampleSeq (S : Regs) (code : ErrorCode) : (S.finished code).sampleSeq = S.sampleSeq := rfl
@[simp] theorem Regs.finished_tFine (S : Regs) (code : ErrorCode) : (S.finished code).tFine = S.tFine := rfl
@[simp] theorem Regs.finished_tOut (S : Regs) (code : ErrorCode) : (S.finished code).tOut = S.tOut := rfl
@[simp] theorem Regs.finished_pOut (S : Regs) (code : ErrorCode) : (S.finished code).pOut = S.pOut := rfl
@[simp] theorem Regs.finished_hOut (S : Regs) (code : ErrorCode) : (S.finished code).hOut = S.hOut := rfl
@[simp] theorem Regs.finished_rawValid (S : Regs) (code : ErrorCode) : (S.finished code).rawValid = S.rawValid := rfl
@[simp] theorem Regs.finished_tfineValid (S : Regs) (code : ErrorCode) : (S.finished code).tfineValid = S.tfineValid := rfl
@[simp] theorem Regs.finished_tValid (S : Regs) (code : ErrorCode) : (S.finished code).tValid = S.tValid := rfl
@[simp] theorem Regs.finished_pValid (S : Regs) (code : ErrorCode) : (S.finished code).pValid = S.pValid := rfl
@[simp] theorem Regs.finished_hValid (S : Regs) (code : ErrorCode) : (S.finished code).hValid = S.hValid := rfl
@[simp] theorem Regs.finished_tunit (S : Regs) (code : ErrorCode) : (S.finished code).tunit = S.tunit := rfl
@[simp] theorem Regs.finished_punit (S : Regs) (code : ErrorCode) : (S.finished code).punit = S.punit := rfl

/-! ## A step's overflow -/

@[simp] theorem Regs.addOvf_ready (S : Regs) (ovf : Bool) : (S.addOvf ovf).ready = S.ready := rfl
@[simp] theorem Regs.addOvf_err (S : Regs) (ovf : Bool) : (S.addOvf ovf).err = S.err := rfl
@[simp] theorem Regs.addOvf_aovf (S : Regs) (ovf : Bool) : (S.addOvf ovf).aovf = (S.aovf || ovf) := rfl
@[simp] theorem Regs.addOvf_aovfAny (S : Regs) (ovf : Bool) : (S.addOvf ovf).aovfAny = S.aovfAny := rfl
@[simp] theorem Regs.addOvf_chipId (S : Regs) (ovf : Bool) : (S.addOvf ovf).chipId = S.chipId := rfl
@[simp] theorem Regs.addOvf_ctrlHum (S : Regs) (ovf : Bool) : (S.addOvf ovf).ctrlHum = S.ctrlHum := rfl
@[simp] theorem Regs.addOvf_ctrlMeas (S : Regs) (ovf : Bool) : (S.addOvf ovf).ctrlMeas = S.ctrlMeas := rfl
@[simp] theorem Regs.addOvf_config (S : Regs) (ovf : Bool) : (S.addOvf ovf).config = S.config := rfl
@[simp] theorem Regs.addOvf_cal (S : Regs) (ovf : Bool) : (S.addOvf ovf).cal = S.cal := rfl
@[simp] theorem Regs.addOvf_adcP (S : Regs) (ovf : Bool) : (S.addOvf ovf).adcP = S.adcP := rfl
@[simp] theorem Regs.addOvf_adcT (S : Regs) (ovf : Bool) : (S.addOvf ovf).adcT = S.adcT := rfl
@[simp] theorem Regs.addOvf_adcH (S : Regs) (ovf : Bool) : (S.addOvf ovf).adcH = S.adcH := rfl
@[simp] theorem Regs.addOvf_sampleSeq (S : Regs) (ovf : Bool) : (S.addOvf ovf).sampleSeq = S.sampleSeq := rfl
@[simp] theorem Regs.addOvf_tFine (S : Regs) (ovf : Bool) : (S.addOvf ovf).tFine = S.tFine := rfl
@[simp] theorem Regs.addOvf_tOut (S : Regs) (ovf : Bool) : (S.addOvf ovf).tOut = S.tOut := rfl
@[simp] theorem Regs.addOvf_pOut (S : Regs) (ovf : Bool) : (S.addOvf ovf).pOut = S.pOut := rfl
@[simp] theorem Regs.addOvf_hOut (S : Regs) (ovf : Bool) : (S.addOvf ovf).hOut = S.hOut := rfl
@[simp] theorem Regs.addOvf_rawValid (S : Regs) (ovf : Bool) : (S.addOvf ovf).rawValid = S.rawValid := rfl
@[simp] theorem Regs.addOvf_tfineValid (S : Regs) (ovf : Bool) : (S.addOvf ovf).tfineValid = S.tfineValid := rfl
@[simp] theorem Regs.addOvf_tValid (S : Regs) (ovf : Bool) : (S.addOvf ovf).tValid = S.tValid := rfl
@[simp] theorem Regs.addOvf_pValid (S : Regs) (ovf : Bool) : (S.addOvf ovf).pValid = S.pValid := rfl
@[simp] theorem Regs.addOvf_hValid (S : Regs) (ovf : Bool) : (S.addOvf ovf).hValid = S.hValid := rfl
@[simp] theorem Regs.addOvf_tunit (S : Regs) (ovf : Bool) : (S.addOvf ovf).tunit = S.tunit := rfl
@[simp] theorem Regs.addOvf_punit (S : Regs) (ovf : Bool) : (S.addOvf ovf).punit = S.punit := rfl

/-! ## The dependants of a sample cleared -/

@[simp] theorem Regs.clearSample_ready (S : Regs) : (S.clearSample).ready = S.ready := rfl
@[simp] theorem Regs.clearSample_err (S : Regs) : (S.clearSample).err = S.err := rfl
@[simp] theorem Regs.clearSample_aovf (S : Regs) : (S.clearSample).aovf = S.aovf := rfl
@[simp] theorem Regs.clearSample_aovfAny (S : Regs) : (S.clearSample).aovfAny = S.aovfAny := rfl
@[simp] theorem Regs.clearSample_chipId (S : Regs) : (S.clearSample).chipId = S.chipId := rfl
@[simp] theorem Regs.clearSample_ctrlHum (S : Regs) : (S.clearSample).ctrlHum = S.ctrlHum := rfl
@[simp] theorem Regs.clearSample_ctrlMeas (S : Regs) : (S.clearSample).ctrlMeas = S.ctrlMeas := rfl
@[simp] theorem Regs.clearSample_config (S : Regs) : (S.clearSample).config = S.config := rfl
@[simp] theorem Regs.clearSample_cal (S : Regs) : (S.clearSample).cal = S.cal := rfl
@[simp] theorem Regs.clearSample_adcP (S : Regs) : (S.clearSample).adcP = S.adcP := rfl
@[simp] theorem Regs.clearSample_adcT (S : Regs) : (S.clearSample).adcT = S.adcT := rfl
@[simp] theorem Regs.clearSample_adcH (S : Regs) : (S.clearSample).adcH = S.adcH := rfl
@[simp] theorem Regs.clearSample_sampleSeq (S : Regs) : (S.clearSample).sampleSeq = S.sampleSeq := rfl
@[simp] theorem Regs.clearSample_tFine (S : Regs) : (S.clearSample).tFine = S.tFine := rfl
@[simp] theorem Regs.clearSample_tOut (S : Regs) : (S.clearSample).tOut = S.tOut := rfl
@[simp] theorem Regs.clearSample_pOut (S : Regs) : (S.clearSample).pOut = S.pOut := rfl
@[simp] theorem Regs.clearSample_hOut (S : Regs) : (S.clearSample).hOut = S.hOut := rfl
@[simp] theorem Regs.clearSample_rawValid (S : Regs) : (S.clearSample).rawValid = false := rfl
@[simp] theorem Regs.clearSample_tfineValid (S : Regs) : (S.clearSample).tfineValid = false := rfl
@[simp] theorem Regs.clearSample_tValid (S : Regs) : (S.clearSample).tValid = false := rfl
@[simp] theorem Regs.clearSample_pValid (S : Regs) : (S.clearSample).pValid = false := rfl
@[simp] theorem Regs.clearSample_hValid (S : Regs) : (S.clearSample).hValid = false := rfl
@[simp] theorem Regs.clearSample_tunit (S : Regs) : (S.clearSample).tunit = S.tunit := rfl
@[simp] theorem Regs.clearSample_punit (S : Regs) : (S.clearSample).punit = S.punit := rfl

/-! ## A sample taken -/

@[simp] theorem Regs.takeSample_ready (S : Regs) (b0 b1 b2 b3 b4 b5 b6 b7 : Byte) : (S.takeSample b0 b1 b2 b3 b4 b5 b6 b7).ready = S.ready := rfl
@[simp] theorem Regs.takeSample_err (S : Regs) (b0 b1 b2 b3 b4 b5 b6 b7 : Byte) : (S.takeSample b0 b1 b2 b3 b4 b5 b6 b7).err = S.err := rfl
@[simp] theorem Regs.takeSample_aovf (S : Regs) (b0 b1 b2 b3 b4 b5 b6 b7 : Byte) : (S.takeSample b0 b1 b2 b3 b4 b5 b6 b7).aovf = S.aovf := rfl
@[simp] theorem Regs.takeSample_aovfAny (S : Regs) (b0 b1 b2 b3 b4 b5 b6 b7 : Byte) : (S.takeSample b0 b1 b2 b3 b4 b5 b6 b7).aovfAny = S.aovfAny := rfl
@[simp] theorem Regs.takeSample_chipId (S : Regs) (b0 b1 b2 b3 b4 b5 b6 b7 : Byte) : (S.takeSample b0 b1 b2 b3 b4 b5 b6 b7).chipId = S.chipId := rfl
@[simp] theorem Regs.takeSample_ctrlHum (S : Regs) (b0 b1 b2 b3 b4 b5 b6 b7 : Byte) : (S.takeSample b0 b1 b2 b3 b4 b5 b6 b7).ctrlHum = S.ctrlHum := rfl
@[simp] theorem Regs.takeSample_ctrlMeas (S : Regs) (b0 b1 b2 b3 b4 b5 b6 b7 : Byte) : (S.takeSample b0 b1 b2 b3 b4 b5 b6 b7).ctrlMeas = S.ctrlMeas := rfl
@[simp] theorem Regs.takeSample_config (S : Regs) (b0 b1 b2 b3 b4 b5 b6 b7 : Byte) : (S.takeSample b0 b1 b2 b3 b4 b5 b6 b7).config = S.config := rfl
@[simp] theorem Regs.takeSample_cal (S : Regs) (b0 b1 b2 b3 b4 b5 b6 b7 : Byte) : (S.takeSample b0 b1 b2 b3 b4 b5 b6 b7).cal = S.cal := rfl
@[simp] theorem Regs.takeSample_adcP (S : Regs) (b0 b1 b2 b3 b4 b5 b6 b7 : Byte) : (S.takeSample b0 b1 b2 b3 b4 b5 b6 b7).adcP = raw20 b0 b1 b2 := rfl
@[simp] theorem Regs.takeSample_adcT (S : Regs) (b0 b1 b2 b3 b4 b5 b6 b7 : Byte) : (S.takeSample b0 b1 b2 b3 b4 b5 b6 b7).adcT = raw20 b3 b4 b5 := rfl
@[simp] theorem Regs.takeSample_adcH (S : Regs) (b0 b1 b2 b3 b4 b5 b6 b7 : Byte) : (S.takeSample b0 b1 b2 b3 b4 b5 b6 b7).adcH = raw16 b6 b7 := rfl
@[simp] theorem Regs.takeSample_sampleSeq (S : Regs) (b0 b1 b2 b3 b4 b5 b6 b7 : Byte) : (S.takeSample b0 b1 b2 b3 b4 b5 b6 b7).sampleSeq = S.sampleSeq + 1#32 := rfl
@[simp] theorem Regs.takeSample_tFine (S : Regs) (b0 b1 b2 b3 b4 b5 b6 b7 : Byte) : (S.takeSample b0 b1 b2 b3 b4 b5 b6 b7).tFine = S.tFine := rfl
@[simp] theorem Regs.takeSample_tOut (S : Regs) (b0 b1 b2 b3 b4 b5 b6 b7 : Byte) : (S.takeSample b0 b1 b2 b3 b4 b5 b6 b7).tOut = S.tOut := rfl
@[simp] theorem Regs.takeSample_pOut (S : Regs) (b0 b1 b2 b3 b4 b5 b6 b7 : Byte) : (S.takeSample b0 b1 b2 b3 b4 b5 b6 b7).pOut = S.pOut := rfl
@[simp] theorem Regs.takeSample_hOut (S : Regs) (b0 b1 b2 b3 b4 b5 b6 b7 : Byte) : (S.takeSample b0 b1 b2 b3 b4 b5 b6 b7).hOut = S.hOut := rfl
@[simp] theorem Regs.takeSample_rawValid (S : Regs) (b0 b1 b2 b3 b4 b5 b6 b7 : Byte) : (S.takeSample b0 b1 b2 b3 b4 b5 b6 b7).rawValid = true := rfl
@[simp] theorem Regs.takeSample_tfineValid (S : Regs) (b0 b1 b2 b3 b4 b5 b6 b7 : Byte) : (S.takeSample b0 b1 b2 b3 b4 b5 b6 b7).tfineValid = S.tfineValid := rfl
@[simp] theorem Regs.takeSample_tValid (S : Regs) (b0 b1 b2 b3 b4 b5 b6 b7 : Byte) : (S.takeSample b0 b1 b2 b3 b4 b5 b6 b7).tValid = S.tValid := rfl
@[simp] theorem Regs.takeSample_pValid (S : Regs) (b0 b1 b2 b3 b4 b5 b6 b7 : Byte) : (S.takeSample b0 b1 b2 b3 b4 b5 b6 b7).pValid = S.pValid := rfl
@[simp] theorem Regs.takeSample_hValid (S : Regs) (b0 b1 b2 b3 b4 b5 b6 b7 : Byte) : (S.takeSample b0 b1 b2 b3 b4 b5 b6 b7).hValid = S.hValid := rfl
@[simp] theorem Regs.takeSample_tunit (S : Regs) (b0 b1 b2 b3 b4 b5 b6 b7 : Byte) : (S.takeSample b0 b1 b2 b3 b4 b5 b6 b7).tunit = S.tunit := rfl
@[simp] theorem Regs.takeSample_punit (S : Regs) (b0 b1 b2 b3 b4 b5 b6 b7 : Byte) : (S.takeSample b0 b1 b2 b3 b4 b5 b6 b7).punit = S.punit := rfl

/-! ## The registers after T_STEP -/

@[simp] theorem tempStep_ready (tu : Option TempUnit) (S : Regs) : (tempStep tu S).ready = S.ready := rfl
@[simp] theorem tempStep_err (tu : Option TempUnit) (S : Regs) : (tempStep tu S).err = S.err := rfl
@[simp] theorem tempStep_aovf (tu : Option TempUnit) (S : Regs) : (tempStep tu S).aovf = (S.aovf || (tempFormula S.adcT (coeffs S.cal)).tOut.ovf) := rfl
@[simp] theorem tempStep_aovfAny (tu : Option TempUnit) (S : Regs) : (tempStep tu S).aovfAny = S.aovfAny := rfl
@[simp] theorem tempStep_chipId (tu : Option TempUnit) (S : Regs) : (tempStep tu S).chipId = S.chipId := rfl
@[simp] theorem tempStep_ctrlHum (tu : Option TempUnit) (S : Regs) : (tempStep tu S).ctrlHum = S.ctrlHum := rfl
@[simp] theorem tempStep_ctrlMeas (tu : Option TempUnit) (S : Regs) : (tempStep tu S).ctrlMeas = S.ctrlMeas := rfl
@[simp] theorem tempStep_config (tu : Option TempUnit) (S : Regs) : (tempStep tu S).config = S.config := rfl
@[simp] theorem tempStep_cal (tu : Option TempUnit) (S : Regs) : (tempStep tu S).cal = S.cal := rfl
@[simp] theorem tempStep_adcP (tu : Option TempUnit) (S : Regs) : (tempStep tu S).adcP = S.adcP := rfl
@[simp] theorem tempStep_adcT (tu : Option TempUnit) (S : Regs) : (tempStep tu S).adcT = S.adcT := rfl
@[simp] theorem tempStep_adcH (tu : Option TempUnit) (S : Regs) : (tempStep tu S).adcH = S.adcH := rfl
@[simp] theorem tempStep_sampleSeq (tu : Option TempUnit) (S : Regs) : (tempStep tu S).sampleSeq = S.sampleSeq := rfl
@[simp] theorem tempStep_tFine (tu : Option TempUnit) (S : Regs) : (tempStep tu S).tFine = (tempFormula S.adcT (coeffs S.cal)).tFine.val := rfl
@[simp] theorem tempStep_tOut (tu : Option TempUnit) (S : Regs) : (tempStep tu S).tOut = (tempFormula S.adcT (coeffs S.cal)).tOut.val := rfl
@[simp] theorem tempStep_pOut (tu : Option TempUnit) (S : Regs) : (tempStep tu S).pOut = S.pOut := rfl
@[simp] theorem tempStep_hOut (tu : Option TempUnit) (S : Regs) : (tempStep tu S).hOut = S.hOut := rfl
@[simp] theorem tempStep_rawValid (tu : Option TempUnit) (S : Regs) : (tempStep tu S).rawValid = S.rawValid := rfl
@[simp] theorem tempStep_tfineValid (tu : Option TempUnit) (S : Regs) : (tempStep tu S).tfineValid = true := rfl
@[simp] theorem tempStep_tValid (tu : Option TempUnit) (S : Regs) : (tempStep tu S).tValid = true := rfl
@[simp] theorem tempStep_pValid (tu : Option TempUnit) (S : Regs) : (tempStep tu S).pValid = S.pValid := rfl
@[simp] theorem tempStep_hValid (tu : Option TempUnit) (S : Regs) : (tempStep tu S).hValid = S.hValid := rfl
@[simp] theorem tempStep_tunit (tu : Option TempUnit) (S : Regs) : (tempStep tu S).tunit = tu.getD S.tunit := rfl
@[simp] theorem tempStep_punit (tu : Option TempUnit) (S : Regs) : (tempStep tu S).punit = S.punit := rfl

/-! ## The registers after H_STEP -/

@[simp] theorem humStep_ready (S : Regs) : (humStep S).ready = S.ready := rfl
@[simp] theorem humStep_err (S : Regs) : (humStep S).err = S.err := rfl
@[simp] theorem humStep_aovf (S : Regs) : (humStep S).aovf = (S.aovf || (humFormula S.adcH S.tFine (coeffs S.cal)).ovf) := rfl
@[simp] theorem humStep_aovfAny (S : Regs) : (humStep S).aovfAny = S.aovfAny := rfl
@[simp] theorem humStep_chipId (S : Regs) : (humStep S).chipId = S.chipId := rfl
@[simp] theorem humStep_ctrlHum (S : Regs) : (humStep S).ctrlHum = S.ctrlHum := rfl
@[simp] theorem humStep_ctrlMeas (S : Regs) : (humStep S).ctrlMeas = S.ctrlMeas := rfl
@[simp] theorem humStep_config (S : Regs) : (humStep S).config = S.config := rfl
@[simp] theorem humStep_cal (S : Regs) : (humStep S).cal = S.cal := rfl
@[simp] theorem humStep_adcP (S : Regs) : (humStep S).adcP = S.adcP := rfl
@[simp] theorem humStep_adcT (S : Regs) : (humStep S).adcT = S.adcT := rfl
@[simp] theorem humStep_adcH (S : Regs) : (humStep S).adcH = S.adcH := rfl
@[simp] theorem humStep_sampleSeq (S : Regs) : (humStep S).sampleSeq = S.sampleSeq := rfl
@[simp] theorem humStep_tFine (S : Regs) : (humStep S).tFine = S.tFine := rfl
@[simp] theorem humStep_tOut (S : Regs) : (humStep S).tOut = S.tOut := rfl
@[simp] theorem humStep_pOut (S : Regs) : (humStep S).pOut = S.pOut := rfl
@[simp] theorem humStep_hOut (S : Regs) : (humStep S).hOut = (humFormula S.adcH S.tFine (coeffs S.cal)).val := rfl
@[simp] theorem humStep_rawValid (S : Regs) : (humStep S).rawValid = S.rawValid := rfl
@[simp] theorem humStep_tfineValid (S : Regs) : (humStep S).tfineValid = S.tfineValid := rfl
@[simp] theorem humStep_tValid (S : Regs) : (humStep S).tValid = S.tValid := rfl
@[simp] theorem humStep_pValid (S : Regs) : (humStep S).pValid = S.pValid := rfl
@[simp] theorem humStep_hValid (S : Regs) : (humStep S).hValid = true := rfl
@[simp] theorem humStep_tunit (S : Regs) : (humStep S).tunit = S.tunit := rfl
@[simp] theorem humStep_punit (S : Regs) : (humStep S).punit = S.punit := rfl

/-! ## Busy -/

theorem State.busy_eq_false_iff (s : State) : s.busy = false ↔ s.phase = .idle := by
  unfold State.busy; split <;> simp_all

theorem State.busy_eq_true_iff (s : State) : s.busy = true ↔ s.phase ≠ .idle := by
  rw [← Bool.not_eq_false, Ne, State.busy_eq_false_iff]

@[simp] theorem State.busy_commit (s : State) (run : Run) (code : ErrorCode) : (s.commit run code).busy = false := rfl

@[simp] theorem State.busy_take (s : State) (m : Move) : (s.take m).busy = true := by cases m <;> rfl

end Sys2Proof.Machine
end

