-- ==== Sys2Proof/Laws/Sequencer.lean ====
section
/-! SUPPORT. Everything the sequencer can do, said once: how the block settles from each phase, what accepting a command
does, and the induction that carries a property through all of the block's steps. -/

namespace Sys2Proof.Machine

/-! ## One step of the block -/

theorem State.blockStep_idle {s : State} (h : s.phase = .idle) : s.blockStep = s := by
  simp [State.blockStep, h]

theorem State.blockStep_answer {s : State} {run : Run} {txn : Txn} {success : Bool} {bytes : List Byte}
    {rest : List Reply} (h : s.phase = .waiting run txn) (ho : s.oracle = .answer success bytes :: rest) :
    s.blockStep = { s with oracle := rest }.answered run txn success bytes := by
  simp [State.blockStep, h, ho]

theorem State.blockStep_finishing {s : State} {run : Run} {code : ErrorCode} (h : s.phase = .finishing run code) :
    s.blockStep = s.commit run code := by
  simp [State.blockStep, h]

theorem State.canMove_idle {s : State} (h : s.phase = .idle) : s.canMove = false := by
  simp [State.canMove, h]

theorem State.canMove_answer {s : State} {run : Run} {txn : Txn} {success : Bool} {bytes : List Byte}
    {rest : List Reply} (h : s.phase = .waiting run txn) (ho : s.oracle = .answer success bytes :: rest) :
    s.canMove = true := by
  simp [State.canMove, h, ho]

theorem State.canMove_finishing {s : State} {run : Run} {code : ErrorCode} (h : s.phase = .finishing run code)
    (ho : s.oracle.head? ≠ some .wait) : s.canMove = true := by
  unfold State.canMove
  split <;> simp_all

theorem State.canMove_wait {s : State} {rest : List Reply} (ho : s.oracle = .wait :: rest) : s.canMove = false := by
  unfold State.canMove
  split <;> simp_all

theorem State.canMove_silent {s : State} {run : Run} {txn : Txn} (h : s.phase = .waiting run txn)
    (ho : s.oracle = []) : s.canMove = false := by
  simp [State.canMove, h, ho]

/-- When the block can move, it either takes one answer of the oracle or commits. -/
theorem State.canMove_cases {s : State} (h : s.canMove = true) :
    (∃ run txn success bytes rest, s.phase = .waiting run txn ∧ s.oracle = .answer success bytes :: rest) ∨
    (∃ run code, s.phase = .finishing run code ∧ s.oracle.head? ≠ some .wait) := by
  unfold State.canMove at h
  split at h
  next => cases h
  next run txn success bytes rest hp ho => exact .inl ⟨run, txn, success, bytes, rest, hp, ho⟩
  next => cases h
  next => cases h
  next run code hp hn =>
    refine .inr ⟨run, code, hp, fun hw => ?_⟩
    cases ho : s.oracle with
    | nil => simp [ho] at hw
    | cons r rest =>
      simp only [ho, List.head?_cons, Option.some.injEq] at hw
      exact hn rest (by rw [ho, hw])

/-! ## Settling -/

@[simp] theorem State.advance_of_not_canMove {s : State} (h : s.canMove = false) (n : Nat) : s.advance n = s := by
  cases n <;> simp [State.advance, h]

theorem State.advance_finishing {s : State} {run : Run} {code : ErrorCode} (h : s.phase = .finishing run code)
    (ho : s.oracle.head? ≠ some .wait) (n : Nat) : s.advance (n + 1) = s.commit run code := by
  simp only [State.advance, State.canMove_finishing h ho, if_true, State.blockStep_finishing h]
  exact State.advance_of_not_canMove (State.canMove_idle rfl) n

/-- The oracle after an answer is the one the answer leaves. -/
@[simp] theorem State.answered_oracle (s : State) (run : Run) (txn : Txn) (success : Bool) (bytes : List Byte) :
    (s.answered run txn success bytes).oracle = s.oracle := by
  unfold State.answered State.take
  dsimp only
  split <;> rfl

/-- Taking up a move changes no committed register. -/
@[simp] theorem State.take_regs (s : State) (m : Move) : (s.take m).regs = s.regs := by cases m <;> rfl

/-- An answer changes no committed register. -/
@[simp] theorem State.answered_regs (s : State) (run : Run) (txn : Txn) (success : Bool) (bytes : List Byte) :
    (s.answered run txn success bytes).regs = s.regs := by
  unfold State.answered
  rw [State.take_regs]

/-- Idle, at a `wait`, or waiting with no answer left, the block settles where it stands. -/
theorem State.settle_of_not_canMove {s : State} (h : s.canMove = false) : s.settle = s :=
  State.advance_of_not_canMove h _

/-- With its `finish` reached and the turn its own, the block commits. -/
theorem State.settle_finishing {s : State} {run : Run} {code : ErrorCode} (h : s.phase = .finishing run code)
    (ho : s.oracle.head? ≠ some .wait) : s.settle = s.commit run code :=
  State.advance_finishing h ho _

/-- With an answer at hand, the block takes it and settles from there. -/
theorem State.settle_answer {s : State} {run : Run} {txn : Txn} {success : Bool} {bytes : List Byte}
    {rest : List Reply} (h : s.phase = .waiting run txn) (ho : s.oracle = .answer success bytes :: rest) :
    s.settle = ({ s with oracle := rest }.answered run txn success bytes).settle := by
  simp [State.settle, ho, State.advance, State.canMove_answer h ho, State.blockStep_answer h ho]

/-- A property that every step of the block keeps holds after any number of them. -/
theorem State.advance_keeps {P : State → Prop} (keeps : ∀ s, s.canMove = true → P s → P s.blockStep) (n : Nat)
    {s : State} (h : P s) : P (s.advance n) := by
  induction n generalizing s with
  | zero => exact h
  | succ n ih =>
    simp only [State.advance]
    split
    next hc => exact ih (keeps s hc h)
    next => exact h

theorem State.settle_keeps {P : State → Prop} (keeps : ∀ s, s.canMove = true → P s → P s.blockStep) {s : State}
    (h : P s) : P s.settle :=
  State.advance_keeps keeps _ h

/-! ## Accepting a command -/

theorem State.accept_busy {s : State} (h : s.phase ≠ .idle) (c : Command) (begin : Run → Move) :
    s.accept c begin = s.setOvr := by
  simp [State.accept, (State.busy_eq_true_iff s).2 h]

theorem State.accept_idle {s : State} (h : s.phase = .idle) (c : Command) (begin : Run → Move) :
    s.accept c begin = (s.take (begin (Run.start c s.regs))).settle := by
  simp [State.accept, (State.busy_eq_false_iff s).2 h]

/-- An accepted command that finishes with no transaction commits at once, unless the host has the turn. -/
theorem State.accept_finish {s : State} (h : s.phase = .idle) (ho : s.oracle.head? ≠ some .wait) {c : Command}
    {begin : Run → Move} {code : ErrorCode} {run : Run} (hb : begin (Run.start c s.regs) = .finish code run) :
    s.accept c begin = { s with regs := run.staged.finished code } := by
  rw [State.accept_idle h, hb, State.settle_finishing (s := s.take _) rfl (by simpa using ho)]
  simp [State.commit, State.take, h]

/-- A property that holds once the command is taken up, or once OVR is set, and that every step of the block keeps. -/
theorem State.accept_keeps {P : State → Prop} (keeps : ∀ s, s.canMove = true → P s → P s.blockStep) {s : State}
    {c : Command} {begin : Run → Move} (hbusy : P s.setOvr)
    (hidle : s.phase = .idle → P (s.take (begin (Run.start c s.regs)))) : P (s.accept c begin) := by
  unfold State.accept
  split
  · exact hbusy
  next hb => exact State.settle_keeps keeps (hidle ((State.busy_eq_false_iff s).1 (by simpa using hb)))

/-! ## Everything an accepted command can lead to -/

/-- A move that either waits in a run satisfying `wait`, or is done in one satisfying `done`. -/
def Move.Meets (wait : Run → Txn → Prop) (done : Run → ErrorCode → Prop) : Move → Prop
  | .issue txn run => wait run txn
  | .finish code run => done run code

/-- What `t` can be once a command accepted in `s` has moved as far as it can, where every transaction is issued by a
run satisfying `wait` and every `finish` reached in one satisfying `done`. -/
structure State.AcceptedAs (s t : State) (wait : Run → Txn → Prop) (done : Run → ErrorCode → Prop) : Prop where
  ovr : t.ovr = s.ovr
  params : t.params = s.params
  inputs : t.inputs = s.inputs
  reads : t.reads = s.reads
  outcome :
    (∃ r txn, t.phase = .waiting r txn ∧ wait r txn ∧ t.regs = s.regs) ∨
    (∃ r code, t.phase = .finishing r code ∧ done r code ∧ t.regs = s.regs) ∨
    (∃ r code, t.phase = .idle ∧ done r code ∧ t.regs = r.staged.finished code)
  sensor : ∀ b : Nat, (∀ r a v, wait r (.write a v) → b ≠ a.toNat) → t.sensor.read b = s.sensor.read b
  silent : (∀ r txn, ¬wait r txn) → t.bus = s.bus ∧ t.oracle = s.oracle ∧ t.sensor = s.sensor

/-- A move taken up in the accepting state, or after an answer. -/
theorem State.AcceptedAs.take {s u : State} {wait : Run → Txn → Prop} {done : Run → ErrorCode → Prop}
    (h : s.AcceptedAs u wait done) (hr : u.regs = s.regs) {m : Move} (hm : m.Meets wait done) :
    s.AcceptedAs (u.take m) wait done := by
  cases m with
  | issue txn run =>
    exact ⟨h.ovr, h.params, h.inputs, h.reads, .inl ⟨run, txn, rfl, hm, hr⟩, h.sensor, fun hn => absurd hm (hn _ _)⟩
  | finish code run =>
    exact ⟨h.ovr, h.params, h.inputs, h.reads, .inr (.inl ⟨run, code, rfl, hm, hr⟩), h.sensor, h.silent⟩

/-- Accepting a command while idle, said once: it is enough to follow the moves of its sequence. -/
theorem State.accept_outcome {s : State} {c : Command} {begin : Run → Move} (wait : Run → Txn → Prop)
    (done : Run → ErrorCode → Prop) (hs : s.phase = .idle) (hb : (begin (Run.start c s.regs)).Meets wait done)
    (hr : ∀ r txn answer, wait r txn → (r.answered.resume txn answer).Meets wait done) :
    s.AcceptedAs (s.accept c begin) wait done := by
  rw [State.accept_idle hs]
  refine State.settle_keeps (P := fun t => s.AcceptedAs t wait done) (fun u hc hu => ?_) ?_
  · rcases State.canMove_cases hc with ⟨r, txn, success, bytes, rest, hp, ho⟩ | ⟨r, code, hp, -⟩
    · obtain ⟨r', txn', hp', hw, hregs⟩ : ∃ r txn, u.phase = .waiting r txn ∧ wait r txn ∧ u.regs = s.regs := by
        rcases hu.outcome with h | ⟨_, _, h, _⟩ | ⟨_, _, h, _⟩
        · exact h
        · rw [hp] at h; cases h
        · rw [hp] at h; cases h
      obtain ⟨rfl, rfl⟩ : r = r' ∧ txn = txn' := by rw [hp] at hp'; injection hp' with h1 h2; exact ⟨h1, h2⟩
      rw [State.blockStep_answer hp ho]
      have hm := hr r txn (txn.outcome success bytes) hw
      unfold State.answered
      refine State.AcceptedAs.take (u := { u with oracle := rest, sensor := txn.effect (txn.outcome success bytes) u.sensor })
        ⟨hu.ovr, hu.params, hu.inputs, hu.reads, .inl ⟨r, txn, hp, hw, hregs⟩, fun b hb => ?_, fun hn => absurd hw (hn _ _)⟩
        hregs hm
      rw [Txn.effect_other _ _ _ _ (fun a v h => hb r a v (h ▸ hw))]
      exact hu.sensor b hb
    · have hd : done r code := by
        rcases hu.outcome with ⟨_, _, h, _⟩ | ⟨r', code', h, hd, _⟩ | ⟨_, _, h, _⟩
        · rw [hp] at h; cases h
        · rw [hp] at h; injection h with h1 h2; exact h1 ▸ h2 ▸ hd
        · rw [hp] at h; cases h
      rw [State.blockStep_finishing hp]
      exact ⟨hu.ovr, hu.params, hu.inputs, hu.reads, .inr (.inr ⟨r, code, rfl, hd, rfl⟩), hu.sensor, hu.silent⟩
  · cases hm : begin (Run.start c s.regs) with
    | issue txn run =>
      rw [hm] at hb
      exact ⟨rfl, rfl, rfl, rfl, .inl ⟨run, txn, rfl, hb, rfl⟩, fun _ _ => rfl, fun hn => absurd hb (hn _ _)⟩
    | finish code run =>
      rw [hm] at hb
      exact ⟨rfl, rfl, rfl, rfl, .inr (.inl ⟨run, code, rfl, hb, rfl⟩), fun _ _ => rfl, fun _ => ⟨rfl, rfl, rfl⟩⟩

end Sys2Proof.Machine
end

