-- ==== Sys2Proof/Laws/Exec.lean ====
section
/-! SUPPORT. What exec and step can do, each said once: every command is an acceptance, and every step is one of six
moves. -/

namespace Sys2Proof.Machine

/-- The beginning of each command's sequence. -/
def begins (p : Config.Params) : Instr → Run → Move
  | .init => initBegin
  | .configure hum meas cfg => configureBegin hum meas cfg
  | .setmode mode => setmodeBegin p mode
  | .readraw => acquireBegin p
  | .compt tu => comptBegin tu
  | .compp pu => comppBegin pu
  | .comph => comphBegin
  | .readt _ => acquireBegin p
  | .readp _ => acquireBegin p
  | .readh => acquireBegin p
  | .readall _ _ => acquireBegin p

/-- Every command's meaning is its acceptance. -/
theorem exec_eq_accept (i : Instr) (s : State) : exec i s = .next (s.accept (.legal i) (begins s.params i)) := by
  cases i <;> rfl

theorem runWord_ok {w : Word} {i : Instr} (h : decode w = .ok i) (s : State) :
    runWord w s = .next (s.accept (.legal i) (begins s.params i)) := by
  simp only [runWord, h, exec_eq_accept]

theorem runWord_error {w : Word} {e : Refused} (h : decode w = .error e) (s : State) :
    runWord w s = .next (s.accept (.illegal w) (.finish .illegalCommand)) := by
  simp only [runWord, h, State.refuseWord]

/-- A command word either runs a well-formed command or is refused. -/
theorem runWord_cases {w : Word} {s t : State} (h : runWord w s = .next t) :
    (∃ i, i.wellFormed = true ∧ decode w = .ok i ∧ t = s.accept (.legal i) (begins s.params i)) ∨
    (∃ e, decode w = .error e ∧ t = s.accept (.illegal w) (.finish .illegalCommand)) := by
  cases hd : decode w with
  | ok i =>
    rw [runWord_ok hd] at h
    exact .inl ⟨i, decode_wellFormed hd, rfl, by injection h with h; exact h.symm⟩
  | error e =>
    rw [runWord_error hd] at h
    exact .inr ⟨e, rfl, by injection h with h; exact h.symm⟩

/-- What a step does on the host's turn, `u` being the state with the turn taken and the access used up. -/
inductive HostMove (u : State) : Input → State → Prop where
  | command {w : Word} {t : State} : runWord w u = .next t → HostMove u (.write 0#8 w) t
  | ignored {index : BitVec 8} {w : Word} : index ≠ 0#8 → HostMove u (.write index w) u
  | read {index : BitVec 8} : HostMove u (.read index) (u.hostRead index)
  | reset : HostMove u .reset u.platformReset

/-- Everything a step can do. -/
theorem step_cases {s t : State} (h : step s = .next t) :
    (s.canMove = true ∧ t = s.settle) ∨
    (s.canMove = false ∧ s.inputs = [] ∧ t = s.endWait) ∨
    (s.canMove = false ∧ ∃ i rest, s.inputs = i :: rest ∧ HostMove { s.endWait with inputs := rest } i t) := by
  unfold step State.nextTurn State.hostTurn at h
  cases hc : s.canMove with
  | true => simp [hc] at h; exact .inl ⟨rfl, h.symm⟩
  | false =>
    cases hi : s.inputs with
    | nil => simp [hc, hi] at h; exact .inr (.inl ⟨rfl, rfl, h.symm⟩)
    | cons i rest =>
      refine .inr (.inr ⟨rfl, i, rest, rfl, ?_⟩)
      cases i with
      | write index w =>
        by_cases hx : index = 0#8
        · subst hx
          simp [hc, hi, State.hostTurnOf] at h
          exact .command h
        · simp [hc, hi, State.hostTurnOf, hx] at h
          subst h
          exact .ignored hx
      | read index => simp [hc, hi, State.hostTurnOf] at h; subst h; exact .read
      | reset => simp [hc, hi, State.hostTurnOf] at h; subst h; exact .reset

/-- A run is its first step and the run from there. -/
theorem core_run_succ {s u : State} (h : step s = .next u) (n : Nat) : core.run (n + 1) s = core.run n u := by
  have h' : core.step s = .next u := h
  simp only [Host.Core.run, h']

/-- The turn taken changes only the oracle, by one `wait`, and only while busy. -/
theorem State.endWait_cases (s : State) :
    s.endWait = s ∨ (s.busy = true ∧ ∃ rest, s.oracle = .wait :: rest ∧ s.endWait = { s with oracle := rest }) := by
  unfold State.endWait
  split
  next hb =>
    split
    next rest ho => exact .inr ⟨hb, rest, ho, rfl⟩
    next => exact .inl rfl
  next => exact .inl rfl

/-- An idle block's host takes its turn at no cost. -/
theorem State.endWait_idle {s : State} (h : s.phase = .idle) : s.endWait = s := by
  simp [State.endWait, (State.busy_eq_false_iff s).2 h]

@[simp] theorem State.endWait_regs (s : State) : s.endWait.regs = s.regs := by
  rcases s.endWait_cases with h | ⟨_, _, _, h⟩ <;> rw [h]

@[simp] theorem State.endWait_ovr (s : State) : s.endWait.ovr = s.ovr := by
  rcases s.endWait_cases with h | ⟨_, _, _, h⟩ <;> rw [h]

@[simp] theorem State.endWait_phase (s : State) : s.endWait.phase = s.phase := by
  rcases s.endWait_cases with h | ⟨_, _, _, h⟩ <;> rw [h]

@[simp] theorem State.endWait_params (s : State) : s.endWait.params = s.params := by
  rcases s.endWait_cases with h | ⟨_, _, _, h⟩ <;> rw [h]

@[simp] theorem State.endWait_sensor (s : State) : s.endWait.sensor = s.sensor := by
  rcases s.endWait_cases with h | ⟨_, _, _, h⟩ <;> rw [h]

@[simp] theorem State.endWait_bus (s : State) : s.endWait.bus = s.bus := by
  rcases s.endWait_cases with h | ⟨_, _, _, h⟩ <;> rw [h]

@[simp] theorem State.endWait_reads (s : State) : s.endWait.reads = s.reads := by
  rcases s.endWait_cases with h | ⟨_, _, _, h⟩ <;> rw [h]

/-- An invariant needs to be checked against these moves only. -/
structure StepKeeps (P : State → Prop) : Prop where
  block : ∀ s, s.canMove = true → P s → P s.blockStep
  inputs : ∀ s rest, P s → P { s with inputs := rest }
  oracle : ∀ s rest, P s → P { s with oracle := rest }
  read : ∀ s index, P s → P (s.hostRead index)
  reset : ∀ s, P s → P s.platformReset
  overrun : ∀ s, P s → P s.setOvr
  begins : ∀ s i, i.wellFormed = true → s.phase = .idle → P s →
    P (s.take (begins s.params i (Run.start (.legal i) s.regs)))
  refuses : ∀ s w, s.phase = .idle → P s → P (s.take (.finish .illegalCommand (Run.start (.illegal w) s.regs)))

/-- A property that each move keeps, every step keeps. -/
theorem StepKeeps.step {P : State → Prop} (k : StepKeeps P) {s t : State} (h : Machine.step s = .next t) (hs : P s) :
    P t := by
  have hw : P s.endWait := by
    rcases s.endWait_cases with h | ⟨_, rest, _, h⟩ <;> rw [h]
    exacts [hs, k.oracle s rest hs]
  rcases step_cases h with ⟨_, rfl⟩ | ⟨_, _, rfl⟩ | ⟨_, i, rest, _, hm⟩
  · exact State.settle_keeps k.block hs
  · exact hw
  · have hu := k.inputs _ rest hw
    cases hm with
    | command hr =>
      rcases runWord_cases hr with ⟨i, hi, _, rfl⟩ | ⟨e, _, rfl⟩
      · exact State.accept_keeps k.block (k.overrun _ hu) fun hp => k.begins _ i hi hp hu
      · exact State.accept_keeps k.block (k.overrun _ hu) fun hp => k.refuses _ _ hp hu
    | ignored _ => exact hu
    | read => exact k.read _ _ hu
    | reset => exact k.reset _ hu

end Sys2Proof.Machine
end

