-- ==== Sys2Proof/Laws/PerInstr.lean ====
section
/-! SUPPORT. The family Encodes: the command word of a well-formed command carries its opcode, its fields, and 0 in every
reserved bit of its format (30_encoding.md R94 to R100). -/

namespace Sys2Proof

/-- The bits of a command word: OPERAND below bit 24, OPC above (30_encoding.md R90). -/
theorem getLsbD_encode (i : Instr) (k : Nat) :
    (encode i).getLsbD k = if k < 24 then i.operand.getLsbD k else i.opcode.getLsbD (k - 24) :=
  BitVec.getLsbD_append

/-- The bits of CONFIGURE's operand: the three images (30_encoding.md R95). -/
theorem getLsbD_operand_configure (hum meas cfg : Byte) (k : Nat) :
    (Instr.operand (.configure hum meas cfg)).getLsbD k =
      if k < 8 then cfg.getLsbD k else if k < 16 then meas.getLsbD (k - 8) else hum.getLsbD (k - 16) := by
  have h1 : (Instr.operand (.configure hum meas cfg)).getLsbD k =
      if k < 8 then cfg.getLsbD k else (hum ++ meas).getLsbD (k - 8) := BitVec.getLsbD_append
  have h2 : (hum ++ meas).getLsbD (k - 8) =
      if k - 8 < 8 then meas.getLsbD (k - 8) else hum.getLsbD (k - 8 - 8) := BitVec.getLsbD_append
  rw [h1, h2]
  split
  · rfl
  · by_cases h : k < 16
    · rw [if_pos (by omega), if_pos h]
    · rw [if_neg (by omega), if_neg h, Nat.sub_sub]

theorem opcodeOf_encode (i : Instr) : opcodeOf (encode i) = i.opcode := by
  apply BitVec.eq_of_getLsbD_eq
  intro k hk
  rw [opcodeOf, BitVec.getLsbD_extractLsb', getLsbD_encode, if_neg (by omega)]
  simp [hk]

namespace Laws.Encodes

/-- What the family says of a command. -/
def Statement (i : Instr) : Prop :=
  i.wellFormed = true →
    opcodeOf (encode i) = i.opcode ∧ fieldsOf (encode i) = some i ∧
      (reservedMask i.opcode).map (encode i &&& ·) = some 0#32

theorem init : Statement .init := by unfold Statement; decide +kernel

theorem configure (hum meas cfg : Byte) : Statement (.configure hum meas cfg) := by
  intro h
  refine ⟨opcodeOf_encode _, ?_, ?_⟩
  · unfold fieldsOf
    rw [opcodeOf_encode]
    show some _ = _
    congr 2 <;>
    · apply BitVec.eq_of_getLsbD_eq
      intro k hk
      rw [BitVec.getLsbD_extractLsb', getLsbD_encode, getLsbD_operand_configure]
      simp only [hk, decide_true, Bool.true_and]
      split_ifs <;> first | omega | congr 1; omega
  · simp only [Instr.wellFormed, confOk, ctrlHumOk, configOk, Bool.and_eq_true, beq_iff_eq, Bool.not_eq_true'] at h
    obtain ⟨⟨⟨_, hr⟩, _⟩, _, hb⟩ := h
    have hr' : ∀ j, j < 5 → hum.getLsbD (3 + j) = false := by
      intro j hj
      have := congrArg (fun v => v.getLsbD j) hr
      simpa [BitVec.getLsbD_extractLsb', hj] using this
    show some (encode _ &&& 0x00F80002#32) = _
    congr 1
    apply BitVec.eq_of_getLsbD_eq
    intro k hk
    rw [BitVec.getLsbD_and, getLsbD_encode, getLsbD_operand_configure]
    by_cases h1 : k = 1
    · subst h1; rw [if_pos (by decide), if_pos (by decide), hb]; rfl
    · by_cases h2 : 19 ≤ k ∧ k < 24
      · have := hr' (k - 19) (by omega)
        rw [show 3 + (k - 19) = k - 16 by omega] at this
        rw [if_pos h2.2, if_neg (by omega), if_neg (by omega), this]; simp
      · have : (0x00F80002#32).getLsbD k = false := by
          revert h1 h2; revert k; decide +kernel
        rw [this]; simp

theorem setmode (mode : BitVec 2) : Statement (.setmode mode) := by
  revert mode; unfold Statement; decide +kernel

theorem readraw : Statement .readraw := by unfold Statement; decide +kernel

theorem compt (tu : TempUnit) : Statement (.compt tu) := by
  cases tu <;> unfold Statement <;> decide +kernel

theorem compp (pu : BitVec 4) : Statement (.compp pu) := by
  revert pu; unfold Statement; decide +kernel

theorem comph : Statement .comph := by unfold Statement; decide +kernel

theorem readt (tu : TempUnit) : Statement (.readt tu) := by
  cases tu <;> unfold Statement <;> decide +kernel

theorem readp (pu : BitVec 4) : Statement (.readp pu) := by
  revert pu; unfold Statement; decide +kernel

theorem readh : Statement .readh := by unfold Statement; decide +kernel

theorem readall (tu : TempUnit) (pu : BitVec 4) : Statement (.readall tu pu) := by
  revert pu; cases tu <;> unfold Statement <;> decide +kernel

end Laws.Encodes

end Sys2Proof
end

