-- ==== Sys2Proof/Tests/Slice0.lean ====
section
/-! SUPPORT. Tests of the model, their expected values taken from 95_test_vectors.md and the worked examples of the rules
(the vector is named in each docstring), and for every statement with hypotheses a witness that meets them. -/

namespace Sys2Proof.Tests

-- One proof after another: side by side, the threads that wait for the kernel reserve more memory than the check allows.
set_option Elab.async false

open Sys2Proof.Machine

/-! ## Small states -/

/-- The bytes of vector CAL-A, as the four sub-reads deliver them. -/
def calA : Vector Byte 32 :=
  #v[0x70#8, 0x6B#8, 0x43#8, 0x67#8, 0x18#8, 0xFC#8,
     0x7D#8, 0x8E#8, 0x43#8, 0xD6#8, 0xD0#8, 0x0B#8, 0x27#8, 0x0B#8, 0x8C#8, 0x00#8, 0xF9#8, 0xFF#8, 0x8C#8, 0x3C#8,
     0xF8#8, 0xC6#8, 0x70#8, 0x17#8,
     0x4B#8,
     0x6A#8, 0x01#8, 0x00#8, 0x13#8, 0x29#8, 0x03#8, 0x1E#8]

/-- Vector CAL-V: T1 = 0, T2 = 32767. -/
def calV : Vector Byte 32 := (((calA.set 0 0x00#8).set 1 0x00#8).set 2 0xFF#8).set 3 0x7F#8
/-- Vector CAL-Z: P1 = 0. -/
def calZ : Vector Byte 32 := (calA.set 6 0x00#8).set 7 0x00#8
/-- Vector CAL-H: H4 = -2048. -/
def calH : Vector Byte 32 := (calA.set 28 0x80#8).set 29 0x20#8

/-- `ok` to a write. -/
def ok : Reply := .answer true []
/-- `fail`. -/
def fail : Reply := .answer false []
/-- Sample R-1 (SAMPLE-A). -/
def sampleA : Reply := .answer true [0x65#8, 0x5A#8, 0xC0#8, 0x7E#8, 0xED#8, 0x00#8, 0x75#8, 0x30#8]

/-- SENSOR-A's answers to INIT, the identity byte given. -/
def initAnswers (id : Byte) : List Reply :=
  [.answer true [id], ok, ok, ok, .answer true (calA.toList.take 6), .answer true ((calA.toList.drop 6).take 18),
   .answer true ((calA.toList.drop 24).take 1), .answer true (calA.toList.drop 25)]

/-- READY-A's registers with a calibration table. -/
def readyRegs (cal : Vector Byte 32) : Regs :=
  { Regs.reset Config.defaults with ready := true, chipId := 0x60#8, cal := cal }

/-- READY-A with a table, an oracle and the shadow's ctrl_meas. -/
def ready (cal : Vector Byte 32) (meas : Byte) (oracle : List Reply) : State :=
  { State.reset with regs := { readyRegs cal with ctrlMeas := meas }, oracle := oracle }

/-- Ready with a present sample and t_fine. -/
def sampled (cal : Vector Byte 32) (adcP adcT : BitVec 20) (adcH : BitVec 16) (tf : Int) : State :=
  { State.reset with
    regs := { readyRegs cal with
      adcP := adcP, adcT := adcT, adcH := adcH, tFine := .ofInt 32 tf, rawValid := true, tfineValid := true } }

/-- One step in which the host writes a command word. -/
def write (w : Word) (s : State) : State :=
  match step { s with inputs := [.write 0#8 w] } with
  | .next t => t
  | .fault _ => s
  | .refused _ => s

/-! ## WellFormed refuses an ill-formed term at each check (30_encoding.md R104, R105; vector E-2) -/

theorem test_wellFormed_osrs_h : (Instr.configure 0x06#8 0x00#8 0x00#8).wellFormed = false := by decide
theorem test_wellFormed_hum_reserved : (Instr.configure 0x08#8 0x00#8 0x00#8).wellFormed = false := by decide
theorem test_wellFormed_osrs_t : (Instr.configure 0x00#8 0xC0#8 0x00#8).wellFormed = false := by decide
theorem test_wellFormed_osrs_p : (Instr.configure 0x00#8 0x18#8 0x00#8).wellFormed = false := by decide
theorem test_wellFormed_configure_mode : (Instr.configure 0x00#8 0x02#8 0x00#8).wellFormed = false := by decide
theorem test_wellFormed_filter : (Instr.configure 0x00#8 0x00#8 0x14#8).wellFormed = false := by decide
theorem test_wellFormed_config_bit1 : (Instr.configure 0x00#8 0x00#8 0x02#8).wellFormed = false := by decide
theorem test_wellFormed_setmode : (Instr.setmode 2#2).wellFormed = false := by decide
theorem test_wellFormed_params : (Config.Params.mk 0x0126A0#24 false).wellFormed = false := by decide
/-- Every field at its largest legal value (vector E-1). -/
theorem test_wellFormed_largest : (Instr.configure 0x05#8 0xB7#8 0xF1#8).wellFormed = true := by decide

/-! ## Decoding the words that the spec writes out (30_encoding.md R107, R109; vectors E-1 and E-2) -/

theorem test_decode_init : decode 0x01000000#32 = .ok .init := by decide
theorem test_decode_configure : decode 0x0205B7F1#32 = .ok (.configure 0x05#8 0xB7#8 0xF1#8) := by decide
theorem test_decode_setmode : decode 0x03000001#32 = .ok (.setmode 1#2) := by decide
theorem test_decode_readraw : decode 0x04000000#32 = .ok .readraw := by decide
theorem test_decode_compt : decode 0x05000001#32 = .ok (.compt .fahrenheit) := by decide
theorem test_decode_compp : decode 0x0600000F#32 = .ok (.compp 15#4) := by decide
theorem test_decode_comph : decode 0x07000000#32 = .ok .comph := by decide
theorem test_decode_readt : decode 0x08000000#32 = .ok (.readt .celsius) := by decide
theorem test_decode_readp : decode 0x09000001#32 = .ok (.readp 1#4) := by decide
theorem test_decode_readh : decode 0x0A000000#32 = .ok .readh := by decide
theorem test_decode_readall : decode 0x0B0000F1#32 = .ok (.readall .fahrenheit 15#4) := by decide
theorem test_decode_refused : [0x00000000#32, 0x0C000000#32, 0xFF000000#32, 0x01000001#32, 0x04800000#32,
    0x02080000#32, 0x02060000#32, 0x0200C000#32, 0x02001800#32, 0x02000200#32, 0x02000014#32, 0x02000002#32,
    0x03000002#32, 0x03000004#32, 0x05000002#32, 0x06000010#32, 0x0A000001#32, 0x0B000002#32, 0x0B000100#32].all
      (fun w => decodeTableWord 32 w.toNat == none) = true := by decide +kernel
/-- A table word of fewer bits is the word with zeros above. -/
theorem test_decodeTableWord : decodeTableWord 32 0x0B000011 = some (.readall .fahrenheit 1#4) := by decide

/-! ## The assembler (30_encoding.md R107 to R109; vector E-1) -/

theorem test_assemble_comment : assembleLine 0x0125A0#24 "; text".toList = .empty := by decide +kernel
theorem test_assemble_configure :
    assembleLine 0x0125A0#24 "CONFIGURE 0x01, 0x25, 0xA0".toList = .command (.configure 0x01#8 0x25#8 0xA0#8) := by
  decide +kernel
theorem test_assemble_setup_default :
    assembleLine 0x0125A0#24 "SETUP t=x2".toList = .command (.configure 0x01#8 0x45#8 0xA0#8) := by decide +kernel
theorem test_assemble_readall : assembleLine 0x0125A0#24 "READALL".toList = .command (.readall .celsius 0#4) := by
  decide +kernel

/-! ## One step of each command -/

/-- Vector I-1, and R127: STATUS, CHIP_ID and CAL7 after INIT. -/
theorem test_init_success :
    let t := write 0x01000000#32 { State.reset with oracle := initAnswers 0x60#8 }
    t.statusWord = 0x00000200#32 ∧ t.hostRegister 0x02#8 = 0x60#32 ∧ t.hostRegister 0x0B#8 = 0x1E032913#32 := by
  decide +kernel
/-- Vector I-3: the third sub-read fails, the fourth is still issued, the table stays 0. -/
theorem test_init_incomplete :
    let t := write 0x01000000#32 { State.reset with oracle := (initAnswers 0x60#8).set 6 fail }
    t.statusWord = 0x00000002#32 ∧ t.bus.head? = some (.read 0xE1#8 7) ∧ t.hostRegister 0x04#8 = 0#32 := by
  decide +kernel

/-- Vector C-1, and R131. -/
theorem test_configure_success :
    let t := write 0x02015710#32 (ready calA 0x25#8 [ok, ok, ok])
    t.hostRegister 0x03#8 = 0x00015710#32 ∧
      t.bus = [.write 0xF5#8 0x10#8, .write 0xF4#8 0x57#8, .write 0xF2#8 0x01#8] := by decide +kernel
/-- Vector C-2: the shadow keeps the new bytes, the third write is not attempted. -/
theorem test_configure_failure :
    let t := write 0x02015710#32 (ready calA 0x25#8 [ok, fail, ok])
    t.hostRegister 0x03#8 = 0x00015710#32 ∧ t.statusWord = 0x00000204#32 ∧ t.bus.length = 2 := by decide +kernel

/-- Vector M-2: the OR keeps forced. -/
theorem test_setmode_or :
    (write 0x03000000#32 (ready calA 0x25#8 [ok])).bus = [.write 0xF4#8 0x25#8] := by decide +kernel
/-- R135, the last clause: the same under `SETMODE_CLEARS_MODE` = true. -/
theorem test_setmode_clears :
    (write 0x03000000#32 { ready calA 0x25#8 [ok] with params := { Config.defaults with setmodeClearsMode := true } }).bus =
      [.write 0xF4#8 0x24#8] := by decide +kernel

/-- Vector A-1, and R167: forced mode. -/
theorem test_readraw_forced :
    let t := write 0x04000000#32 (ready calA 0x25#8 [ok, sampleA])
    t.hostRegister 0x0C#8 = 0x000655AC#32 ∧ t.hostRegister 0x0D#8 = 0x0007EED0#32 ∧ t.hostRegister 0x0E#8 = 0x00007530#32 ∧
      t.hostRegister 0x14#8 = 1#32 ∧ t.hostRegister 0x0F#8 = 1#32 ∧
      t.bus = [.read 0xF7#8 8, .write 0xF4#8 0x25#8] := by decide +kernel
/-- Sample R-5, sleep mode: no re-arm, the low nibbles of bytes 2 and 5 discarded. -/
theorem test_readraw_sleep :
    let t := write 0x04000000#32 (ready calA 0x24#8
      [.answer true [0x80#8, 0x00#8, 0x0F#8, 0x80#8, 0x00#8, 0x0F#8, 0x80#8, 0x00#8]])
    t.hostRegister 0x0C#8 = 0x00080000#32 ∧ t.hostRegister 0x0D#8 = 0x00080000#32 ∧ t.bus.length = 1 := by decide +kernel

/-- Vector T-1, and R194. -/
theorem test_compt :
    let t := write 0x05000000#32 (sampled calA 415148#20 519888#20 30000#16 0)
    t.hostRegister 0x10#8 = 0x0001F5A6#32 ∧ t.hostRegister 0x11#8 = 0x000009CC#32 ∧ t.statusWord = 0x00000200#32 := by
  decide +kernel
/-- Vector T-4: a negative t_fine rounds toward minus infinity. -/
theorem test_compt_negative :
    (write 0x05000000#32 (sampled calA 415148#20 400000#20 30000#16 0)).hostRegister 0x11#8 = 0xFFFFFB10#32 := by
  decide +kernel

/-- Vector P-1, and R207. -/
theorem test_compp :
    let t := write 0x06000001#32 (sampled calA 415148#20 519888#20 30000#16 128422)
    t.hostRegister 0x12#8 = 0x01892D41#32 ∧ t.statusWord = 0x00000200#32 ∧ t.hostRegister 0x14#8 = 0x0000100B#32 := by
  decide +kernel
/-- Vector P-2: the guard fires. -/
theorem test_compp_div0 :
    let t := write 0x06000001#32 (sampled calZ 415148#20 519888#20 30000#16 128422)
    t.statusWord = 0x00000206#32 ∧ t.hostRegister 0x14#8 = 0x00001003#32 := by decide +kernel

/-- Vector H-1, and R219. -/
theorem test_comph :
    (write 0x07000000#32 (sampled calA 415148#20 519888#20 30000#16 128422)).hostRegister 0x13#8 = 0x0000DBFD#32 := by
  decide +kernel
/-- Vectors H-2 and H-3: the clamp at both ends. -/
theorem test_comph_clamp :
    (write 0x07000000#32 (sampled calA 415148#20 519888#20 0x0000#16 128422)).hostRegister 0x13#8 = 0#32 ∧
      (write 0x07000000#32 (sampled calA 415148#20 519888#20 0xFFFF#16 128422)).hostRegister 0x13#8 = 0x00019000#32 := by
  decide +kernel

/-- Vector T-8: READT on CAL-V with sample R-2 overflows, wraps and stays valid. -/
theorem test_readt_overflow :
    let t := write 0x08000000#32 (ready calV 0x25#8
      [ok, .answer true [0x00#8, 0x00#8, 0x00#8, 0xFF#8, 0xFF#8, 0xF0#8, 0x00#8, 0x00#8]])
    t.statusWord = 0x00001A00#32 ∧ t.hostRegister 0x14#8 = 0x00000007#32 ∧ t.hostRegister 0x11#8 = 0xFFFFFFFE#32 := by
  decide +kernel

/-- Vector P-3: READP with sample R-4, truncating division and the narrowing's overflow. -/
theorem test_readp_narrowing :
    let t := write 0x09000000#32 (ready calA 0x25#8
      [ok, .answer true [0xFF#8, 0xFF#8, 0xF0#8, 0x7E#8, 0xED#8, 0x00#8, 0x75#8, 0x30#8]])
    t.statusWord = 0x00001A00#32 ∧ t.hostRegister 0x14#8 = 0x0000000F#32 ∧ t.hostRegister 0x12#8 = 0xFFE61920#32 := by
  decide +kernel

/-- Vector H-4: READH on CAL-H with sample R-3, overflow inside the polynomial, the result clamped. -/
theorem test_readh_overflow :
    let t := write 0x0A000000#32 (ready calH 0x25#8
      [ok, .answer true [0x65#8, 0x5A#8, 0xC0#8, 0x7E#8, 0xED#8, 0x00#8, 0xFF#8, 0xFF#8]])
    t.statusWord = 0x00001A00#32 ∧ t.hostRegister 0x14#8 = 0x00000017#32 ∧ t.hostRegister 0x13#8 = 0#32 ∧
      t.hostRegister 0x11#8 = 0x000009CC#32 := by decide +kernel

/-- R251's worked example. -/
theorem test_readall :
    let t := write 0x0B000000#32 (ready calA 0x25#8 [ok, sampleA])
    t.hostRegister 0x11#8 = 2508#32 ∧ t.hostRegister 0x12#8 = 25767233#32 ∧ t.hostRegister 0x13#8 = 56317#32 ∧
      t.hostRegister 0x14#8 = 0x0000001F#32 ∧ t.statusWord = 0x00000200#32 := by decide +kernel
/-- R250: a pressure divide by zero leaves temperature and humidity. -/
theorem test_readall_div0 :
    let t := write 0x0B000000#32 (ready calZ 0x25#8 [ok, sampleA])
    t.statusWord = 0x00000206#32 ∧ t.hostRegister 0x14#8 = 0x00000017#32 ∧ t.hostRegister 0x13#8 = 56317#32 := by
  decide +kernel

/-- R307: a run ends when STATUS reads BUSY = 0 after the last command, and not while a command runs. -/
theorem test_end_of_run :
    { write 0x0B000000#32 (ready calA 0x25#8 [ok, sampleA]) with inputs := [.read 0x01#8] }.endsRun = true ∧
      { write 0x0B000000#32 (ready calA 0x25#8 [ok]) with inputs := [.read 0x01#8] }.endsRun = false ∧
      (write 0x0B000000#32 (ready calA 0x25#8 [ok, sampleA])).observed[0x14]? = some 0x0000001F#32 := by decide +kernel

/-- Vector E-2: a refused word, from READY-A. -/
theorem test_refused_word :
    let t := write 0x02060000#32 (ready calA 0x25#8 [])
    t.statusWord = 0x00000208#32 ∧ t.hostRegister 0x03#8 = 0x000125A0#32 ∧ t.bus = [] := by decide +kernel

/-- READALL begun on READY-A, its re-arm write outstanding and the host having the turn. -/
def midReadall : State :=
  let s := write 0x0B000000#32 (ready calA 0x25#8 [.wait, ok, sampleA])
  { s with inputs := [.write 0#8 0x01000000#32] }

/-- Vector X-1: a CMD write while busy sets OVR at once and runs nothing. -/
theorem test_overrun :
    midReadall.statusWord = 0x00000300#32 ∧ (write 0x01000000#32 midReadall).statusWord = 0x00000700#32 := by
  decide +kernel

/-- Vector X-3: a reset during a command. -/
theorem test_reset_in_run :
    midReadall.platformReset.statusWord = 0#32 ∧ midReadall.platformReset.hostRegister 0x03#8 = 0x000125A0#32 := by
  decide +kernel

/-! ## Presentation (vectors T-1, P-1 and H-1) -/

/-- T-1 in Fahrenheit, each operation rounded: the binary64 written 77.14399999999999, not that of 77.144. -/
theorem test_present_fahrenheit :
    presentTemperature roundBinary64
        { readyRegs calA with tOut := 2508#32, tValid := true, tunit := .fahrenheit } =
      some (roundBinary64 (77 + 14399999999999 / 100000000000000)) ∧
      roundBinary64 (77 + 14399999999999 / 100000000000000) ≠ roundBinary64 (77 + 144 / 1000) := by decide +kernel
/-- Just below a power of two the unit is the smaller one: 2^53 - 1 is itself a number of the format, and 2^53 + 1 is a tie
that goes to the even neighbour. -/
theorem test_present_binade :
    roundBinary64 (2 ^ 53 - 1) = 2 ^ 53 - 1 ∧ roundBinary64 (2 ^ 53 + 1) = 2 ^ 53 := by decide +kernel
/-- P-1 in psi. -/
theorem test_present_psi :
    presentPressure roundBinary64 { readyRegs calA with pOut := 25767233#32, pValid := true, punit := 7#4 } =
      some (roundBinary64 (14 + 598546640054705 / 1000000000000000)) := by decide +kernel
/-- H-1. -/
theorem test_present_humidity :
    presentHumidity roundBinary64 { readyRegs calA with hOut := 56317#32, hValid := true } =
      some (54 + 9970703125 / 10000000000) := by decide +kernel

/-! ## Witnesses: states and operands that meet the hypotheses of the statements, each clause at a boundary value -/

theorem goesOn_nil : GoesOn [] := by unfold GoesOn; decide

theorem witness_DecodeOfEncodeIsTheCommand :
    (Instr.configure 0x05#8 0xB7#8 0xF1#8).wellFormed = true ∧ (Instr.setmode 3#2).wellFormed = true := by decide
theorem witness_EncodeOfDecodeIsTheWord : decode 0x0205B7F1#32 = .ok (.configure 0x05#8 0xB7#8 0xF1#8) := by decide
theorem witness_ReservedOpcodesAreIllegal :
    (0x00FFFFFF#32).toNat / 2 ^ 24 = 0 ∧ 0x0C ≤ (0x0C000000#32).toNat / 2 ^ 24 ∧ State.reset.phase = .idle ∧
      GoesOn State.reset.oracle := ⟨by decide, by decide, rfl, goesOn_nil⟩
/-- One word for every disjunct, at its lowest or highest reserved bit. -/
theorem witness_ReservedBitsAreIllegal :
    ([0x01000001, 0x04800000, 0x07000001, 0x0A000001].all fun w =>
      [1, 4, 7, 10].contains (w / 2 ^ 24) && w % 2 ^ 24 != 0) = true ∧
    ([0x02080000, 0x02000002].all fun w =>
      w / 2 ^ 24 == 2 && (w % 2 ^ 24 / 2 ^ 19 != 0 || w % 2 ^ 24 / 2 % 2 != 0)) = true ∧
    ([0x03000004].all fun w => w / 2 ^ 24 == 3 && w % 2 ^ 24 / 2 ^ 2 != 0) = true ∧
    ([0x05000002, 0x08800000].all fun w => [5, 8].contains (w / 2 ^ 24) && w % 2 ^ 24 / 2 != 0) = true ∧
    ([0x06000010, 0x09800000].all fun w => [6, 9].contains (w / 2 ^ 24) && w % 2 ^ 24 / 2 ^ 4 != 0) = true ∧
    ([0x0B000100, 0x0B000002].all fun w =>
      w / 2 ^ 24 == 11 && (w % 2 ^ 24 / 2 ^ 8 != 0 || w % 2 ^ 24 / 2 % 2 ^ 3 != 0)) = true ∧
    State.reset.phase = .idle ∧ GoesOn State.reset.oracle :=
  ⟨by decide, by decide, by decide, by decide, by decide, by decide, rfl, goesOn_nil⟩
/-- The largest legal operand, and one with osrs_h at 6. -/
theorem witness_ConfigureOperandsAreChecked :
    (0x0205B7F1#32).toNat = 0x02 * 2 ^ 24 + 0x05B7F1 ∧
    (0x05B7F1 / 2 ^ 19 = 0 ∧ 0x05B7F1 / 2 ^ 16 % 8 ≤ 5 ∧ 0x05B7F1 / 2 ^ 13 % 8 ≤ 5 ∧ 0x05B7F1 / 2 ^ 10 % 8 ≤ 5 ∧
      0x05B7F1 / 2 ^ 8 % 4 ≠ 2 ∧ 0x05B7F1 / 4 % 8 ≤ 4 ∧ 0x05B7F1 / 2 % 2 = 0) ∧
    (0x02060000#32).toNat = 0x02 * 2 ^ 24 + 0x060000 ∧ ¬0x060000 / 2 ^ 16 % 8 ≤ 5 ∧
    State.reset.phase = .idle ∧ GoesOn State.reset.oracle :=
  ⟨by decide, by decide, by decide, by decide, rfl, goesOn_nil⟩
theorem witness_SetmodeRefusesModeTen :
    3 < 4 ∧ 3 ≠ 2 ∧ 2 < 4 ∧ State.reset.phase = .idle ∧ GoesOn State.reset.oracle :=
  ⟨by decide, by decide, by decide, rfl, goesOn_nil⟩
theorem witness_StepRunsTheDecodedCommand :
    let s : State := { ready calA 0x25#8 [ok, sampleA] with inputs := [.write 0#8 0x0B000000#32] }
    s.canMove = false ∧ s.inputs = .write 0#8 0x0B000000#32 :: [] ∧
      decode 0x0B000000#32 = .ok (.readall .celsius 0#4) := by decide +kernel
/-- The refused words: a reserved opcode, a reserved bit and a refused operand. -/
theorem witness_StepRunsTheDecodedCommand_refused :
    let s : State := { ready calA 0x25#8 [] with inputs := [.write 0#8 0x0C000000#32] }
    s.phase = .idle ∧ GoesOn s.oracle ∧ s.canMove = false ∧ s.inputs = .write 0#8 0x0C000000#32 :: [] ∧
      decode 0x0C000000#32 = .error .reservedOpcode ∧ decode 0x01000001#32 = .error .reservedBit ∧
      decode 0x03000002#32 = .error .operandValue :=
  ⟨rfl, goesOn_nil, rfl, rfl, by decide +kernel, by decide +kernel, by decide +kernel⟩
theorem witness_CmdWriteWhileBusySetsOvrOnly :
    midReadall.busy = true ∧ midReadall.canMove = false ∧ midReadall.inputs = .write 0#8 0x01000000#32 :: [] := by
  decide +kernel
/-- The last calibration byte, and the first and last unassigned indices. -/
theorem witness_HostRegisterMap : 7 < 8 ∧ 3 < 4 ∧ 0x15 ≤ (0x15#8).toNat ∧ 0x15 ≤ (0xFF#8).toNat := by decide
theorem witness_HostAccessesHaveNoOtherEffect :
    let r : State := { State.reset with inputs := [.read 0xFF#8] }
    let w : State := { State.reset with inputs := [.write 0x01#8 0xFFFFFFFF#32] }
    r.canMove = false ∧ r.inputs = .read 0xFF#8 :: [] ∧
      w.canMove = false ∧ w.inputs = .write 0x01#8 0xFFFFFFFF#32 :: [] ∧ 0x01#8 ≠ 0#8 := by decide +kernel

/-- The state of the INIT statements: reset, with an oracle. -/
def fresh (oracle : List Reply) : State := { State.reset with oracle := oracle }

theorem witness_InitLoadsTheTableAndGetsReady :
    let s := fresh (initAnswers 0x58#8)
    s.phase = .idle ∧ s.regs.ready = false ∧ (0x58#8 = 0x60#8 ∨ 0x58#8 = 0x58#8) ∧
      (calA.toList.take 6).length = 6 ∧ ((calA.toList.drop 6).take 18).length = 18 ∧
      ((calA.toList.drop 24).take 1).length = 1 ∧ (calA.toList.drop 25).length = 7 ∧
      s.oracle = .answer true [0x58#8] :: ok :: ok :: ok ::
        .answer true (calA.toList.take 6) :: .answer true ((calA.toList.drop 6).take 18) ::
        .answer true ((calA.toList.drop 24).take 1) :: .answer true (calA.toList.drop 25) :: [] := by decide +kernel
theorem witness_InitIdentityFailures :
    (fresh [fail]).phase = .idle ∧ (fresh [fail]).regs.ready = false ∧ (fresh [fail]).oracle = .answer false [] :: [] ∧
    (fresh [.answer true [0x60#8, 0#8]]).oracle = .answer true [0x60#8, 0#8] :: [] ∧ [0x60#8, 0#8].length ≠ 1 ∧
    (fresh [.answer true [0x59#8]]).oracle = .answer true [0x59#8] :: [] ∧ 0x59#8 ≠ 0x60#8 ∧ 0x59#8 ≠ 0x58#8 := by
  decide +kernel
theorem witness_InitStopsAtTheFirstFailedWrite :
    let i := Reply.answer true [0x60#8]
    (∀ o ∈ [[i, fail], [i, ok, fail], [i, ok, ok, fail]],
      (fresh o).phase = .idle ∧ (fresh o).regs.ready = false ∧ (fresh o).oracle = o) ∧
    (0x60#8 = 0x60#8 ∨ 0x60#8 = 0x58#8) := by decide +kernel
/-- Only the last sub-read is bad: it delivers one byte too few. -/
theorem witness_InitAttemptsAllFourSubReads :
    let o := [.answer true [0x60#8], ok, ok, ok, .answer true (calA.toList.take 6),
      .answer true ((calA.toList.drop 6).take 18), .answer true ((calA.toList.drop 24).take 1),
      .answer true (calA.toList.drop 26)]
    (fresh o).phase = .idle ∧ (fresh o).regs.ready = false ∧ (fresh o).oracle = o ∧
      ¬((true = true ∧ (calA.toList.take 6).length = 6) ∧ (true = true ∧ ((calA.toList.drop 6).take 18).length = 18) ∧
        (true = true ∧ ((calA.toList.drop 24).take 1).length = 1) ∧
        (true = true ∧ (calA.toList.drop 26).length = 7)) := by decide +kernel
theorem witness_InitWhenReadyChangesNothing :
    (ready calA 0x25#8 []).phase = .idle ∧ (ready calA 0x25#8 []).regs.ready = true ∧
      GoesOn (ready calA 0x25#8 []).oracle := ⟨rfl, rfl, goesOn_nil⟩
/-- From a ready state, and from one that stays not ready. -/
theorem witness_InitFrame :
    (∃ t, exec .init (ready calA 0x25#8 []) = .next t ∧ (ready calA 0x25#8 []).regs.ready = true) ∧
    (∃ t, exec .init (fresh [fail]) = .next t ∧ t.regs.ready = false) ∧
    0xF3 ≠ Config.ctrlHumAddr.toNat ∧ 0xF3 ≠ Config.ctrlMeasAddr.toNat ∧ 0xF3 ≠ Config.configAddr.toNat := by
  refine ⟨⟨_, rfl, rfl⟩, ⟨_, rfl, by decide +kernel⟩, by decide, by decide, by decide⟩

theorem witness_ConfigureWritesTheThreeBytes :
    (ready calA 0x25#8 [ok, ok, ok]).phase = .idle ∧
      (ready calA 0x25#8 [ok, ok, ok]).oracle = .answer true [] :: .answer true [] :: .answer true [] :: [] ∧ GoesOn [] :=
  ⟨rfl, rfl, goesOn_nil⟩
theorem witness_ConfigureKeepsTheShadowOnFailure :
    (∀ o ∈ [[fail], [ok, fail], [ok, ok, fail]], (ready calA 0x25#8 o).phase = .idle ∧ (ready calA 0x25#8 o).oracle = o) ∧
    GoesOn [] := ⟨by decide +kernel, goesOn_nil⟩
/-- Both values of the parameter, with a write that succeeds and one that fails. -/
theorem witness_SetmodeOrsTheModeBits :
    let s := ready calA 0x27#8 [fail]
    let u : State := { ready calA 0x27#8 [ok] with params := { Config.defaults with setmodeClearsMode := true } }
    s.phase = .idle ∧ s.oracle = .answer false [] :: [] ∧ s.params.setmodeClearsMode = false ∧
      0x27#8 = s.regs.ctrlMeas ||| (0#2).zeroExtend 8 ∧
      u.phase = .idle ∧ u.oracle = .answer true [] :: [] ∧ u.params.setmodeClearsMode = true ∧
      0x24#8 = (u.regs.ctrlMeas &&& 0xFC#8) ||| (0#2).zeroExtend 8 := by decide +kernel
theorem witness_ConfiguratorFrame :
    (∃ t, exec (.configure 0x05#8 0xB7#8 0xF1#8) (ready calA 0x25#8 [fail]) = .next t ∧ t.regs.err = .transportWriteError) ∧
    (∃ t, exec (.setmode 3#2) (ready calA 0x25#8 [ok]) = .next t ∧ t.regs.ctrlMeas = 0x27#8) :=
  ⟨⟨_, rfl, by decide +kernel⟩, ⟨_, rfl, by decide +kernel⟩⟩

/-- A successful acquisition in forced mode. -/
theorem burst_forced (cal : Vector Byte 32) :
    BurstAnswered (ready cal 0x25#8 [ok, sampleA]) [] 0x65#8 0x5A#8 0xC0#8 0x7E#8 0xED#8 0x00#8 0x75#8 0x30#8 [] :=
  ⟨rfl, rfl, goesOn_nil, by simp [ready, readyRegs, ok, sampleA]⟩
/-- And in sleep mode, with no re-arm. -/
theorem burst_sleep (cal : Vector Byte 32) :
    BurstAnswered (ready cal 0x24#8 [sampleA]) [] 0x65#8 0x5A#8 0xC0#8 0x7E#8 0xED#8 0x00#8 0x75#8 0x30#8 [] :=
  ⟨rfl, rfl, goesOn_nil, by simp [ready, readyRegs, sampleA]⟩
theorem witness_ReadrawTakesASample :
    BurstAnswered (ready calA 0x25#8 [ok, sampleA]) [] 0x65#8 0x5A#8 0xC0#8 0x7E#8 0xED#8 0x00#8 0x75#8 0x30#8 [] ∧
    BurstAnswered (ready calA 0x24#8 [sampleA]) [] 0x65#8 0x5A#8 0xC0#8 0x7E#8 0xED#8 0x00#8 0x75#8 0x30#8 [] :=
  ⟨burst_forced calA, burst_sleep calA⟩
/-- The four ways to fail: not ready, the re-arm, the burst in sleep mode (one byte too few) and in forced mode. -/
theorem witness_FailedAcquisitionClearsEveryFlag :
    (Command.legal (.readall .fahrenheit 15#4)).acquires = true ∧ (Command.legal .readraw).acquires = true ∧
    ((fresh []).phase = .idle ∧ (fresh []).regs.ready = false) ∧
    ((ready calA 0x25#8 [fail]).phase = .idle ∧ (ready calA 0x25#8 [fail]).regs.ready = true ∧
      (ready calA 0x25#8 [fail]).regs.ctrlMeas.extractLsb' 0 2 = 1#2) ∧
    ((ready calA 0x24#8 [.answer true [0#8, 0#8, 0#8, 0#8, 0#8, 0#8, 0#8]]).regs.ready = true ∧
      (ready calA 0x24#8 []).regs.ctrlMeas.extractLsb' 0 2 ≠ 1#2 ∧
      [0#8, 0#8, 0#8, 0#8, 0#8, 0#8, 0#8].length ≠ 8) ∧
    ((ready calA 0x25#8 [ok, fail]).regs.ready = true ∧
      (ready calA 0x25#8 [ok, fail]).oracle = .answer true [] :: .answer false [] :: []) := by decide +kernel
theorem witness_AcquiringCommandsFrame :
    (Command.legal (.readp 0#4)).acquires = true ∧
    ∃ t, exec (.readp 0#4) (ready calZ 0x25#8 [ok, sampleA]) = .next t ∧ t.regs.err = .divideByZero :=
  ⟨rfl, _, rfl, by decide +kernel⟩

/-- Each of the four operations, its exact result one past the range of 32 bits. -/
theorem witness_CheckedOperationsWrapAndRecord :
    0 < 32 ∧ ¬Fits 32 ((Checked.lit 2147483647 : Checked 32).val.toInt + (Checked.lit 1 : Checked 32).val.toInt) ∧
    ¬Fits 32 ((Checked.lit (-2147483648) : Checked 32).val.toInt - (Checked.lit 1 : Checked 32).val.toInt) ∧
    ¬Fits 32 ((Checked.lit 65536 : Checked 32).val.toInt * (Checked.lit 32768 : Checked 32).val.toInt) ∧
    ¬Fits 32 ((Checked.lit 1 : Checked 32).val.toInt * 2 ^ 31) := by unfold Fits; decide +kernel
/-- The bytes of CAL-A as numbers, the first and the last named. -/
theorem witness_CoefficientRanges :
    ∃ b : Nat → Int, (∀ i : Fin 32, b i = (calA[i].toNat : Int)) ∧ b 0 = 0x70 ∧ b 31 = 0x1E :=
  ⟨fun i => (calA.toList.map fun v => (v.toNat : Int)).getD i 0, by decide +kernel⟩
theorem witness_DivisionTruncatesTowardZero :
    (Checked.lit (-1) : Checked 64).val.toInt ≠ 0 ∧
    ¬((Checked.lit (-2 ^ 63 + 1) : Checked 64).val.toInt = -2 ^ 63 ∧ (Checked.lit (-1) : Checked 64).val.toInt = -1) ∧
    (Checked.lit (-2 ^ 63) : Checked 64).val.toInt = -2 ^ 63 := by decide +kernel

/-- The two ends of the temperature statement: vector T-1 has no overflow, vector T-8 has one. -/
theorem witness_TemperatureIsExactWithoutOverflow :
    (tempFormula 519888#20 (coeffs calA)).tOut.ovf = false ∧ (tempFormula 0xFFFFF#20 (coeffs calV)).tOut.ovf = true := by
  decide +kernel
theorem witness_ComptComputesTheTemperature :
    let s := sampled calV 0#20 0xFFFFF#20 0#16 0
    s.phase = .idle ∧ s.regs.ready = true ∧ s.regs.rawValid = true ∧ GoesOn s.oracle := ⟨rfl, rfl, rfl, goesOn_nil⟩
/-- Not ready; ready with no sample; a sample with no t_fine. -/
theorem witness_DependencyEnforcer :
    (fresh []).regs.ready = false ∧
    ((ready calA 0x25#8 []).phase = .idle ∧ (ready calA 0x25#8 []).regs.ready = true ∧
      (ready calA 0x25#8 []).regs.rawValid = false) ∧
    (let s := sampled calA 0#20 0#20 0#16 0
     let u : State := { s with regs := { s.regs with tfineValid := false } }
     u.phase = .idle ∧ u.regs.ready = true ∧ u.regs.rawValid = true ∧ u.regs.tfineValid = false) ∧
    GoesOn (ready calA 0x25#8 []).oracle := ⟨rfl, ⟨rfl, rfl, rfl⟩, ⟨rfl, rfl, rfl, rfl⟩, goesOn_nil⟩
/-- Vector P-1's numbers: every exact result fits and the denominator is not 0; and with P1 = 0 (vector P-2) it is 0. -/
theorem witness_PressureIsExactWithoutOverflow :
    ∀ c ∈ [coeffs calA, coeffs calZ],
    let v := (128422#32).toInt - 128000; let q1 := v * v; let a2 := q1 * c.p6; let q2 := v * c.p5; let q3 := q2 * 2 ^ 17
    let b2 := a2 + q3; let q4 := c.p4 * 2 ^ 35; let var2 := b2 + q4; let q6 := q1 * c.p3; let q8 := v * c.p2
    let q9 := q8 * 2 ^ 12; let var1 := q6 / 2 ^ 8 + q9; let q10 := 2 ^ 47 + var1; let q11 := q10 * c.p1
    let den := q11 / 2 ^ 33; let p : Int := 1048576 - 415148; let q12 := p * 2 ^ 31; let q13 := q12 - var2
    let q14 := q13 * 3125; let p2 := q14.tdiv den; let s := p2 / 2 ^ 13; let q15 := c.p9 * s; let q16 := q15 * s
    let q17 := c.p8 * p2; let q18 := p2 + q16 / 2 ^ 25; let q19 := q18 + q17 / 2 ^ 19; let q21 := c.p7 * 2 ^ 4
    (∀ e ∈ [v, q1, a2, q2, q3, b2, q4, var2, q6, q8, q9, var1, q10, q11], Fits 64 e) ∧
    (den = 0 ↔ c.p1 = 0) ∧
    (∀ e ∈ [p, q12, q13, q14, p2, q15, q16, q17, q18, q19, q21, q19 / 2 ^ 8 + q21], Fits 64 e) := by
  unfold Fits
  decide +kernel
/-- The other outcomes: DIV0 after an overflow before the guard, and a pressure whose narrowing overflows (vector P-3). -/
theorem witness_PressureIsExactWithoutOverflow_raised :
    presFormula 415148#20 0x80000000#32 (coeffs calZ) = .div0 true ∧
      presFormula 0xFFFFF#20 128422#32 (coeffs calA) = .pressure { val := 0xFFE61920#32, ovf := true } := by decide +kernel
theorem witness_ComppComputesThePressure :
    let s := sampled calA 415148#20 519888#20 30000#16 128422
    let u := sampled calZ 415148#20 519888#20 30000#16 128422
    s.phase = .idle ∧ s.regs.ready = true ∧ s.regs.rawValid = true ∧ s.regs.tfineValid = true ∧
      u.phase = .idle ∧ u.regs.ready = true ∧ u.regs.rawValid = true ∧ u.regs.tfineValid = true ∧
      presFormula s.regs.adcP s.regs.tFine (coeffs s.regs.cal) = .pressure { val := 25767233#32, ovf := false } ∧
      presFormula u.regs.adcP u.regs.tFine (coeffs u.regs.cal) = .div0 false := by decide +kernel
theorem witness_ZeroP1DividesByZero :
    let s := sampled calZ 0xFFFFF#20 519888#20 30000#16 (-2147483648)
    s.regs.cal[6] = 0#8 ∧ s.regs.cal[7] = 0#8 ∧ s.phase = .idle ∧ s.regs.ready = true ∧ s.regs.rawValid = true ∧
      s.regs.tfineValid = true := by decide +kernel
/-- Vector H-1's numbers: every exact result fits. -/
theorem witness_HumidityIsExactWithoutOverflow :
    let c := coeffs calA
    let v := (128422#32).toInt - 76800; let a1 : Int := 30000 * 2 ^ 14; let a2 := c.h4 * 2 ^ 20; let a3 := a1 - a2
    let a4 := c.h5 * v; let a5 := a3 - a4; let a6 := a5 + 16384; let b1 := v * c.h6; let c1 := v * c.h3
    let c3 := c1 / 2 ^ 11 + 32768; let d1 := b1 / 2 ^ 10 * c3; let d3 := d1 / 2 ^ 10 + 2097152; let e1 := d3 * c.h2
    let e2 := e1 + 8192; let m := a6 / 2 ^ 15 * (e2 / 2 ^ 14); let s := m / 2 ^ 15; let f1 := s * s
    let f3 := f1 / 2 ^ 7 * c.h1; let x := m - f3 / 2 ^ 4
    ∀ e ∈ [v, a1, a2, a3, a4, a5, a6, b1, c1, c3, d1, d3, e1, e2, m, f1, f3, x], Fits 32 e := by
  unfold Fits
  decide +kernel
/-- Both values of the overflow indication (vectors H-1 and H-4). -/
theorem witness_HumidityIsExactWithoutOverflow_raised :
    (humFormula 30000#16 128422#32 (coeffs calA)).ovf = false ∧
      (humFormula 0xFFFF#16 128422#32 (coeffs calH)).ovf = true := by decide +kernel
/-- Both ends of the clamp (vectors H-2 and H-3). -/
theorem witness_HumidityIsClamped :
    (humPolynomial 0x0000#16 128422#32 (coeffs calA)).val.toInt < 0 ∧
      419430400 < (humPolynomial 0xFFFF#16 128422#32 (coeffs calA)).val.toInt := by decide +kernel
theorem witness_ComphComputesTheHumidity :
    let s := sampled calH 415148#20 519888#20 0xFFFF#16 128422
    s.phase = .idle ∧ s.regs.ready = true ∧ s.regs.rawValid = true ∧ s.regs.tfineValid = true ∧ GoesOn s.oracle :=
  ⟨rfl, rfl, rfl, rfl, goesOn_nil⟩
theorem witness_CompensationFrame :
    let s := sampled calA 415148#20 519888#20 30000#16 128422
    (∃ t, exec (.compt .fahrenheit) s = .next t ∧ t.regs.tOut = 2508#32) ∧
    (∃ t, exec (.compp 7#4) s = .next t ∧ t.regs.pOut = 25767233#32) ∧
    (∃ t, exec .comph s = .next t ∧ t.regs.hOut = 56317#32) :=
  ⟨⟨_, rfl, by decide +kernel⟩, ⟨_, rfl, by decide +kernel⟩, ⟨_, rfl, by decide +kernel⟩⟩

theorem witness_ReadtReadsTheTemperature :
    BurstAnswered (ready calV 0x25#8 [ok, sampleA]) [] 0x65#8 0x5A#8 0xC0#8 0x7E#8 0xED#8 0x00#8 0x75#8 0x30#8 [] :=
  burst_forced calV
/-- Both outcomes of the pressure, for READP and READALL. -/
theorem witness_ReadpReadsThePressure :
    BurstAnswered (ready calA 0x25#8 [ok, sampleA]) [] 0x65#8 0x5A#8 0xC0#8 0x7E#8 0xED#8 0x00#8 0x75#8 0x30#8 [] ∧
    BurstAnswered (ready calZ 0x24#8 [sampleA]) [] 0x65#8 0x5A#8 0xC0#8 0x7E#8 0xED#8 0x00#8 0x75#8 0x30#8 [] ∧
    presFormula 415148#20 (tempFormula 519888#20 (coeffs calA)).tFine.val (coeffs calA) =
      .pressure { val := 25767233#32, ovf := false } ∧
    presFormula 415148#20 (tempFormula 519888#20 (coeffs calZ)).tFine.val (coeffs calZ) = .div0 false :=
  ⟨burst_forced calA, burst_sleep calZ, by decide +kernel, by decide +kernel⟩
theorem witness_ReadhReadsTheHumidity :
    BurstAnswered (ready calH 0x24#8 [sampleA]) [] 0x65#8 0x5A#8 0xC0#8 0x7E#8 0xED#8 0x00#8 0x75#8 0x30#8 [] :=
  burst_sleep calH
theorem witness_ReadallReadsAllThree :
    BurstAnswered (ready calA 0x24#8 [sampleA]) [] 0x65#8 0x5A#8 0xC0#8 0x7E#8 0xED#8 0x00#8 0x75#8 0x30#8 [] ∧
    BurstAnswered (ready calZ 0x25#8 [ok, sampleA]) [] 0x65#8 0x5A#8 0xC0#8 0x7E#8 0xED#8 0x00#8 0x75#8 0x30#8 [] :=
  ⟨burst_sleep calA, burst_forced calZ⟩
/-- A chain that succeeds: the state after READRAW is idle and free to go on. -/
theorem witness_ReadallEqualsTheSequence :
    let s := ready calA 0x25#8 [ok, sampleA]
    ∃ s1 s2 s3 s4 t, exec .readraw s = .next s1 ∧ exec (.compt .celsius) s1 = .next s2 ∧
      exec (.compp 1#4) s2 = .next s3 ∧ exec .comph s3 = .next s4 ∧ exec (.readall .celsius 1#4) s = .next t ∧
      s.phase = .idle ∧ s1.phase = .idle ∧ s1.oracle.head? ≠ some .wait ∧ s1.regs.rawValid = true :=
  ⟨_, _, _, _, _, rfl, rfl, rfl, rfl, rfl, rfl, by decide +kernel, by decide +kernel, by decide +kernel⟩

/-- One run that ends busy, and one that finds the block busy. -/
theorem witness_EveryCommandsFrame :
    (∃ t, exec .readraw (ready calA 0x25#8 [.wait]) = .next t ∧ t.busy = true) ∧
    (∃ t, exec .init midReadall = .next t ∧ midReadall.busy = true) :=
  ⟨⟨_, rfl, by decide +kernel⟩, ⟨_, rfl, by decide +kernel⟩⟩
theorem witness_NothingIsVisibleBeforeTheCommit : ∃ t, step midReadall = .next t ∧ t.busy = true :=
  ⟨_, rfl, by decide +kernel⟩
theorem witness_ResetMeetsTheInvariant :
    Config.defaults.wellFormed = true ∧ (Config.Params.mk 0x05B7F1#24 true).wellFormed = true := by decide

/-- The state that a step goes on to. -/
def after (s : State) : State :=
  match step s with
  | .next t => t
  | .fault _ => s
  | .refused _ => s

/-- A step that goes on. -/
def goes (s : State) : Bool :=
  match step s with
  | .next _ => true
  | .fault _ => false
  | .refused _ => false

theorem step_after {s : State} (h : goes s = true) : step s = .next (after s) := by
  unfold goes at h
  unfold after
  cases hs : step s with
  | next t => rfl
  | fault f => rw [hs] at h; cases h
  | refused r => rw [hs] at h; cases h

/-- From reset: INIT, READALL, and a READP whose sample is R-4, which overflows. -/
def run0 : State :=
  { State.resetWith Config.defaults with
    inputs := [.write 0#8 0x01000000#32, .write 0#8 0x0B000000#32, .write 0#8 0x09000000#32, .read 0x01#8]
    oracle := initAnswers 0x60#8 ++ [ok, sampleA, ok,
      .answer true [0xFF#8, 0xFF#8, 0xF0#8, 0x7E#8, 0xED#8, 0x00#8, 0x75#8, 0x30#8]] }
def run1 : State := after run0
def run2 : State := after run1
def run3 : State := after run2

theorem reachable_run0 : Reachable run0 := .reset Config.defaults _ _ (by decide)
theorem reachable_run1 : Reachable run1 := .step _ _ reachable_run0 (step_after (by decide +kernel))
theorem reachable_run2 : Reachable run2 := .step _ _ reachable_run1 (step_after (by decide +kernel))

/-- A run reaches a state in which every sampling premise holds. -/
theorem witness_SamplingInvariantsHold :
    Reachable run2 ∧ run2.regs.rawValid = true ∧ run2.regs.tfineValid = true ∧ run2.regs.pValid = true ∧
      run2.regs.hValid = true := ⟨reachable_run2, by decide +kernel⟩
theorem witness_ShadowStaysLegal : Reachable run1 ∧ run1.regs.ready = true := ⟨reachable_run1, by decide +kernel⟩

/-- The state after the third command, OVR set as well, meets the invariant: its premises hold in it. -/
def full : State := { run3 with ovr := true }
theorem full_inv : full.Inv where
  params := by decide +kernel
  shadow := by unfold Regs.ShadowOk; decide +kernel
  sampled :=
    { raw := fun _ => by decide +kernel
      tfine := fun _ => by decide +kernel
      temp := fun _ => by decide +kernel
      pres := fun _ => ⟨by decide +kernel, true, by decide +kernel⟩
      hum := fun h => absurd h (by decide +kernel) }
  waiting := fun r txn h => absurd h (by rw [show full.phase = .idle by decide +kernel]; exact nofun)
  finishing := fun r code h => absurd h (by rw [show full.phase = .idle by decide +kernel]; exact nofun)
  sensor := by decide +kernel
theorem witness_EveryStepKeepsTheInvariant :
    full.Inv ∧ step full = .next (after full) ∧ full.regs.pValid = true :=
  ⟨full_inv, step_after (by decide +kernel), by decide +kernel⟩
theorem witness_OnlyResetLeavesReady :
    full.Inv ∧ step full = .next (after full) ∧ full.inputs.head? ≠ some .reset ∧ full.regs.ready = true ∧
      full.regs.aovfAny = true ∧ full.ovr = true :=
  ⟨full_inv, step_after (by decide +kernel), by decide +kernel⟩

/-- READALL's burst outstanding, the host having the turn. -/
def midBurst : State := write 0x0B000000#32 (ready calA 0x25#8 [ok, .wait, sampleA])
/-- A reset with the re-arm write outstanding, and one with the burst outstanding. -/
theorem witness_ResetAbandonsTheCommand :
    let s : State := { midReadall with inputs := [.reset] }
    let u : State := { midBurst with inputs := [.reset] }
    (s.canMove = false ∧ s.inputs = .reset :: [] ∧ step s = .next (after s) ∧
      ∃ run, s.phase = .waiting run (.write 0xF4#8 0x25#8)) ∧
    (u.canMove = false ∧ u.inputs = .reset :: [] ∧ step u = .next (after u) ∧
      ∃ run, u.phase = .waiting run (.read 0xF7#8 8)) :=
  ⟨⟨by decide +kernel, rfl, step_after (by decide +kernel), _, rfl⟩,
   by decide +kernel, rfl, step_after (by decide +kernel), _, rfl⟩
/-- The burst is never answered; the host writes a command in the meantime. -/
theorem witness_UnansweredTransactionHangs :
    let s : State := { midBurst with oracle := [], inputs := [.write 0#8 0x01000000#32] }
    (∃ run, s.phase = .waiting run (.read 0xF7#8 8)) ∧ s.oracle = [] ∧ .reset ∉ s.inputs ∧
      ∃ t, Sys2Proof.core.run 1 s = .next t :=
  ⟨⟨_, rfl⟩, rfl, by decide, _, rfl⟩
theorem witness_WaitsDelayButDoNotChange :
    midBurst.inputs = [] ∧ midBurst.busy = true ∧ midBurst.oracle = .wait :: [sampleA] := by decide +kernel
/-- Every clause's premise: both units of temperature, and the unit codes 0 to 8 and 15. -/
theorem witness_PresentationIsExactWithoutRounding :
    let S : Regs := { readyRegs calA with tValid := true, pValid := true, hValid := true }
    S.tValid = true ∧ S.tunit = .celsius ∧ { S with tunit := .fahrenheit }.tValid = true ∧ S.hValid = true ∧
      S.pValid = true ∧ { S with punit := 15#4 }.pValid = true ∧ 8 ≤ (8#4).toNat ∧ 8 ≤ (15#4).toNat := by decide

end Sys2Proof.Tests
end

section
/-! SUPPORT. Proofs about the state and the host's side (10_state.md): the host register file by bits, what a turn of the
host does, and that a running command shows none of its effects before its commit. -/

namespace Sys2Proof.Machine

/-! ## The bits of STATUS and FLAGS -/

theorem getLsbD_bit (b : Bool) (k : Nat) : (bit b).getLsbD k = (decide (k = 0) && b) := by
  simp [bit, BitVec.getLsbD_ofBool]

theorem getLsbD_tunitBit (tu : TempUnit) (k : Nat) :
    (tunitBit tu).getLsbD k = (decide (k = 0) && tu == .fahrenheit) := by
  cases tu <;> simp [tunitBit]

/-- A field is 0 when each of its bits is. -/
theorem extractLsb'_eq_zero {n : Nat} {x : BitVec n} {start len : Nat}
    (h : ∀ i < len, x.getLsbD (start + i) = false) : x.extractLsb' start len = 0#len := by
  apply BitVec.eq_of_getLsbD_eq
  intro i hi
  rw [BitVec.getLsbD_extractLsb', h i hi, Bool.and_false, BitVec.getLsbD_zero]

/-- STATUS by bits: the error code below bit 8, five flags from there, 0 above (10_state.md R25). -/
theorem State.statusWord_getLsbD (s : State) (k : Nat) : s.statusWord.getLsbD k =
    if k < 8 then s.regs.err.byte.getLsbD k
    else [s.busy, s.regs.ready, s.ovr, s.regs.aovf, s.regs.aovfAny].getD (k - 8) false := by
  unfold State.statusWord
  iterate 6 rw [BitVec.getLsbD_append]
  simp only [getLsbD_bit, BitVec.getLsbD_zero]
  by_cases hk : k < 8
  · simp only [hk, if_true]
  · obtain ⟨j, rfl⟩ := Nat.exists_eq_add_of_le (Nat.le_of_not_lt hk)
    match j with
    | 0 | 1 | 2 | 3 | 4 | n + 5 => simp

/-- FLAGS by bits: the VALID bits and TUNIT below bit 12, PUNIT from there, 0 above (10_state.md R36). -/
theorem Regs.flagsWord_getLsbD (S : Regs) (k : Nat) : S.flagsWord.getLsbD k =
    if k < 12 then
      [S.rawValid, S.tfineValid, S.tValid, S.pValid, S.hValid, false, false, false, S.tunit == .fahrenheit].getD k false
    else S.punit.getLsbD (k - 12) := by
  unfold Regs.flagsWord
  iterate 9 rw [BitVec.getLsbD_append]
  simp only [getLsbD_bit, getLsbD_tunitBit, BitVec.getLsbD_zero]
  by_cases hk : k < 12
  · interval_cases k <;> rfl
  · obtain ⟨j, rfl⟩ := Nat.exists_eq_add_of_le' (Nat.le_of_not_lt hk)
    have h3 : ¬j + 7 < 3 := by omega
    by_cases hj : j < 4
    · simp [h3, hj]
    · simp [hj, BitVec.getLsbD_of_ge S.punit j (Nat.le_of_not_lt hj)]

/-- Settles O12, from the bits of STATUS. -/
theorem statusBits : Obligations.StatusBits := by
  unfold Obligations.StatusBits
  intro s
  refine ⟨BitVec.extractLsb'_append_eq_right, s.statusWord_getLsbD 8, s.statusWord_getLsbD 9,
    s.statusWord_getLsbD 10, s.statusWord_getLsbD 11, s.statusWord_getLsbD 12, extractLsb'_eq_zero fun i hi => ?_,
    rfl, rfl, rfl, rfl, rfl, rfl, rfl, rfl, rfl⟩
  rw [s.statusWord_getLsbD, if_neg (by omega)]
  exact List.getD_eq_default _ _ (by simp only [List.length_cons, List.length_nil]; omega)

/-- Settles O13, from the bits of FLAGS. -/
theorem flagsBits : Obligations.FlagsBits := by
  unfold Obligations.FlagsBits
  intro S
  refine ⟨S.flagsWord_getLsbD 0, S.flagsWord_getLsbD 1, S.flagsWord_getLsbD 2, S.flagsWord_getLsbD 3,
    S.flagsWord_getLsbD 4, extractLsb'_eq_zero fun i hi => ?_, ?_, extractLsb'_eq_zero fun i hi => ?_, ?_,
    extractLsb'_eq_zero fun i hi => ?_⟩
  · rw [S.flagsWord_getLsbD]
    interval_cases i <;> rfl
  · rw [S.flagsWord_getLsbD]
    exact beq_iff_eq
  · rw [S.flagsWord_getLsbD]
    interval_cases i <;> rfl
  · apply BitVec.eq_of_getLsbD_eq
    intro i hi
    simp only [BitVec.getLsbD_extractLsb', S.flagsWord_getLsbD, hi, decide_true, Bool.true_and]
    rw [if_neg (by omega), Nat.add_sub_cancel_left]
  · rw [S.flagsWord_getLsbD, if_neg (by omega), BitVec.getLsbD_of_ge _ _ (by omega)]

/-! ## The host register file -/

/-- The number an appended word stands for. -/
theorem toNat_append_eq_add {m n : Nat} (x : BitVec m) (y : BitVec n) : (x ++ y).toNat = x.toNat * 2 ^ n + y.toNat := by
  rw [BitVec.toNat_append, ← Nat.shiftLeft_add_eq_or_of_lt y.isLt, Nat.shiftLeft_eq]

theorem Regs.ctrlWord_toNat (S : Regs) :
    S.ctrlWord.toNat = S.ctrlHum.toNat * 2 ^ 16 + S.ctrlMeas.toNat * 2 ^ 8 + S.config.toNat := by
  unfold Regs.ctrlWord
  iterate 3 rw [toNat_append_eq_add]
  simp only [BitVec.toNat_ofNat]
  omega

theorem Regs.getElem?_cal (S : Regs) {j : Nat} (hj : j < 32) : S.cal[j]? = some (S.calByte j) := by
  simp [Regs.calByte, hj]

/-- Byte `i` of CALk is byte `4 * k + i` of the table (10_state.md R23). -/
theorem Regs.calWord_byte (S : Regs) (k : Nat) {i : Nat} (hi : i < 4) :
    (S.calWord k).extractLsb' (8 * i) 8 = S.calByte (4 * k + i) := by
  unfold Regs.calWord
  match i with
  | 0 => exact BitVec.extractLsb'_append_eq_right
  | 1 =>
    rw [BitVec.extractLsb'_append_eq_of_le (by decide)]
    exact BitVec.extractLsb'_append_eq_right
  | 2 =>
    iterate 2 rw [BitVec.extractLsb'_append_eq_of_le (by decide)]
    exact BitVec.extractLsb'_append_eq_right
  | 3 =>
    iterate 3 rw [BitVec.extractLsb'_append_eq_of_le (by decide)]
    exact BitVec.extractLsb'_eq_self

/-- The eight indices from 0x04 are CAL0 to CAL7. -/
theorem State.hostRegister_cal (s : State) {k : Nat} (hk : k < 8) :
    s.hostRegister (.ofNat 8 (4 + k)) = s.regs.calWord k := by
  interval_cases k <;> rfl

/-- The indices from 0x15 on are reserved. -/
theorem State.hostRegister_reserved (s : State) {index : BitVec 8} (h : 0x15 ≤ index.toNat) :
    s.hostRegister index = 0#32 := by
  unfold State.hostRegister
  split
  case h_22 => rfl
  all_goals omega

/-- Settles O11, index by index. -/
theorem hostRegisterMap : Obligations.HostRegisterMap := by
  unfold Obligations.HostRegisterMap
  intro s
  refine ⟨rfl, rfl, BitVec.toNat_setWidth_of_le (by decide), s.regs.ctrlWord_toNat, fun k i hk hi => ?_,
    BitVec.toNat_setWidth_of_le (by decide), BitVec.toNat_setWidth_of_le (by decide),
    BitVec.toNat_setWidth_of_le (by decide), rfl, rfl, rfl, rfl, rfl, rfl, fun _ => s.hostRegister_reserved⟩
  rw [s.hostRegister_cal hk, s.regs.calWord_byte k hi, s.regs.getElem?_cal (by omega)]

/-! ## The state after reset -/

/-- With no VALID bit set, the sampling invariants ask nothing (41_sampler.md R166). -/
theorem Regs.Sampled.of_invalid {S : Regs} (hraw : S.rawValid = false) (htfine : S.tfineValid = false)
    (ht : S.tValid = false) (hp : S.pValid = false) (hh : S.hValid = false) : S.Sampled where
  raw h := by simp [hraw] at h
  tfine h := by simp [htfine] at h
  temp h := by simp [ht] at h
  pres h := by simp [hp] at h
  hum h := by simp [hh] at h

/-- Settles O50: the block is idle with nothing valid, and the shadow is the legal `RESET_CTRL`. -/
theorem resetMeetsTheInvariant : Obligations.ResetMeetsTheInvariant := by
  unfold Obligations.ResetMeetsTheInvariant
  intro p inputs oracle hp
  exact
    { params := hp
      shadow := hp
      sampled := .of_invalid rfl rfl rfl rfl rfl
      waiting := fun _ _ h => nomatch h
      finishing := fun _ _ h => nomatch h
      sensor := ⟨.nil, fun _ h => nomatch h⟩ }

/-- Settles O56, index by index. -/
theorem resetValues : Obligations.ResetValues := by
  unfold Obligations.ResetValues
  refine ⟨rfl, rfl, rfl, rfl, fun index hindex => ?_⟩
  unfold State.hostRegister
  split
  case h_4 h => exact absurd (BitVec.eq_of_toNat_eq h) hindex
  all_goals rfl

/-! ## A turn of the host -/

/-- On the host's turn its next access is taken, the turn used up. -/
theorem State.nextTurn_host {s : State} {i : Input} {rest : List Input} (hc : s.canMove = false)
    (hi : s.inputs = i :: rest) : s.nextTurn = { s.endWait with inputs := rest }.hostTurnOf i := by
  simp [State.nextTurn, State.hostTurn, hc, hi]

theorem step_command {s : State} {w : Word} {rest : List Input} (hc : s.canMove = false)
    (hi : s.inputs = .write 0#8 w :: rest) : step s = runWord w { s.endWait with inputs := rest } := by
  simp [step, State.nextTurn_host hc hi, State.hostTurnOf]

theorem step_write_other {s : State} {index : BitVec 8} {w : Word} {rest : List Input} (hc : s.canMove = false)
    (hi : s.inputs = .write index w :: rest) (h0 : index ≠ 0#8) : step s = .next { s.endWait with inputs := rest } := by
  simp [step, State.nextTurn_host hc hi, State.hostTurnOf, h0]

theorem step_read {s : State} {index : BitVec 8} {rest : List Input} (hc : s.canMove = false)
    (hi : s.inputs = .read index :: rest) :
    step s = .next ({ s.endWait with inputs := rest }.hostRead index) := by
  simp [step, State.nextTurn_host hc hi, State.hostTurnOf]

/-- The host's registers do not show whose turn it is. -/
theorem State.hostRegister_endWait (s : State) (index : BitVec 8) :
    s.endWait.hostRegister index = s.hostRegister index := by
  rcases s.endWait_cases with h | ⟨_, _, _, h⟩ <;> rw [h]
  rfl

theorem runWord_eq_exec {w : Word} {i : Instr} (h : decode w = .ok i) (s : State) : runWord w s = exec i s := by
  rw [runWord_ok h, exec_eq_accept]

/-- A refused word before an idle block that is free to go on (30_encoding.md R100). -/
theorem runWord_refused {w : Word} {e : Refused} {s : State} (h : decode w = .error e) (hp : s.phase = .idle)
    (ho : GoesOn s.oracle) : runWord w s = .next s.refused := by
  rw [runWord_error h, State.accept_finish hp ho rfl]
  simp [State.refused, Regs.finished]

/-- Any word before a busy block (10_state.md R24). -/
theorem runWord_busy {s : State} (hp : s.phase ≠ .idle) (w : Word) : runWord w s = .next s.setOvr := by
  cases h : decode w with
  | ok i => rw [runWord_ok h, State.accept_busy hp]
  | error e => rw [runWord_error h, State.accept_busy hp]

theorem State.withFetchWord_toNat (s : State) (w : Word) : s.withFetchWord 32 w.toNat = s.withCommandWord w := by
  rw [State.withFetchWord, Nat.mod_eq_of_lt w.isLt, BitVec.ofNat_toNat, BitVec.setWidth_eq]

/-- Settles O9: a CMD write runs its word, which decoding accepts or refuses. -/
theorem stepRunsTheDecodedCommand : Obligations.StepRunsTheDecodedCommand := by
  unfold Obligations.StepRunsTheDecodedCommand
  refine ⟨fun s w rest i hc hi hd => ?_, fun s w i hd => ?_, fun s w rest hc hi => step_command hc hi,
    fun s w rest e hp ho hi hd => ?_⟩
  · rw [step_command hc hi, runWord_eq_exec hd]
  · have hp : (s.withCommandWord w).phase = .idle := rfl
    rw [s.withFetchWord_toNat, step_command (State.canMove_idle hp) rfl, runWord_eq_exec hd, State.endWait_idle hp]
    rfl
  · rw [step_command (State.canMove_idle hp) hi, State.endWait_idle hp]
    exact runWord_refused hd hp ho

/-- Settles O10: the word finds the block busy. -/
theorem cmdWriteWhileBusySetsOvrOnly : Obligations.CmdWriteWhileBusySetsOvrOnly := by
  unfold Obligations.CmdWriteWhileBusySetsOvrOnly
  intro s w rest hb hc hi
  have hp : s.endWait.phase ≠ .idle := by rwa [s.endWait_phase, ← State.busy_eq_true_iff]
  rw [step_command hc hi]
  exact runWord_busy (s := { s.endWait with inputs := rest }) hp w

/-- Settles O14: the host's turn uses up the access and at most a `wait`, which no host register shows. -/
theorem hostAccessesHaveNoOtherEffect : Obligations.HostAccessesHaveNoOtherEffect := by
  unfold Obligations.HostAccessesHaveNoOtherEffect
  intro s index w rest hc
  refine ⟨fun hi => ?_, fun hi h0 => step_write_other hc hi h0⟩
  rw [step_read hc hi, ← s.hostRegister_endWait, ← s.endWait_reads]
  rfl

/-! ## Nothing is visible before the commit -/

theorem State.busy_of_canMove {s : State} (h : s.canMove = true) : s.busy = true := by
  rw [State.busy_eq_true_iff]
  intro hp
  rw [State.canMove_idle hp] at h
  cases h

/-- The block's one step that changes a committed register is the commit, which leaves it idle. -/
theorem State.blockStep_regs_of_busy {s : State} (hc : s.canMove = true) (hb : s.blockStep.busy = true) :
    s.blockStep.regs = s.regs := by
  rcases State.canMove_cases hc with ⟨run, txn, success, bytes, rest, hp, ho⟩ | ⟨run, code, hp, -⟩
  · rw [State.blockStep_answer hp ho, State.answered_regs]
  · rw [State.blockStep_finishing hp, State.busy_commit] at hb
    cases hb

theorem State.settle_regs_of_busy {s : State} (hb : s.settle.busy = true) : s.settle.regs = s.regs := by
  refine State.settle_keeps (P := fun u => u.busy = true → u.regs = s.regs) (fun u hc hu hb' => ?_) (fun _ => rfl) hb
  rw [State.blockStep_regs_of_busy hc hb', hu (State.busy_of_canMove hc)]

/-- A command that has been accepted and has not committed shows nothing of itself (10_state.md R22). -/
theorem State.accept_regs_of_busy {s : State} {c : Command} {begin : Run → Move}
    (hb : (s.accept c begin).busy = true) : (s.accept c begin).regs = s.regs := by
  by_cases hp : s.phase = .idle
  · rw [State.accept_idle hp] at hb ⊢
    rw [State.settle_regs_of_busy hb, State.take_regs]
  · rw [State.accept_busy hp, State.setOvr_regs]

theorem Move.meets_true (m : Move) : m.Meets (fun _ _ => True) (fun _ _ => True) := by
  cases m <;> trivial

/-- What accepting any command leaves alone, and OVR (10_state.md R24). -/
theorem State.accept_frame (s : State) (c : Command) (begin : Run → Move) :
    (s.accept c begin).params = s.params ∧ (s.accept c begin).inputs = s.inputs ∧
      (s.accept c begin).reads = s.reads ∧ (s.accept c begin).ovr = (s.ovr || s.busy) := by
  by_cases hp : s.phase = .idle
  · obtain ⟨hovr, hparams, hinputs, hreads, -, -, -⟩ := State.accept_outcome (c := c) (fun _ _ => True)
      (fun _ _ => True) hp (begin (Run.start c s.regs)).meets_true fun _ _ _ _ => Move.meets_true _
    exact ⟨hparams, hinputs, hreads, by rw [hovr, (State.busy_eq_false_iff s).2 hp, Bool.or_false]⟩
  · rw [State.accept_busy hp]
    exact ⟨rfl, rfl, rfl, by rw [State.setOvr_ovr, (State.busy_eq_true_iff s).2 hp, Bool.or_true]⟩

/-- Settles O47: every command is an acceptance. -/
theorem everyCommandsFrame : Obligations.EveryCommandsFrame := by
  unfold Obligations.EveryCommandsFrame
  intro s t i h
  rw [exec_eq_accept] at h
  injection h with h
  subst h
  obtain ⟨hparams, hinputs, hreads, hovr⟩ := s.accept_frame (.legal i) (begins s.params i)
  exact ⟨hparams, hinputs, hreads, hovr, State.accept_regs_of_busy⟩

theorem runWord_regs_of_busy {w : Word} {s t : State} (h : runWord w s = .next t) (hb : t.busy = true) :
    t.regs = s.regs := by
  rcases runWord_cases h with ⟨i, -, -, rfl⟩ | ⟨e, -, rfl⟩ <;> exact State.accept_regs_of_busy hb

/-- Settles O49, over everything a step can do. -/
theorem nothingIsVisibleBeforeTheCommit : Obligations.NothingIsVisibleBeforeTheCommit := by
  unfold Obligations.NothingIsVisibleBeforeTheCommit
  intro s t h hb
  rcases step_cases h with ⟨-, rfl⟩ | ⟨-, -, rfl⟩ | ⟨-, i, rest, -, hm⟩
  · exact State.settle_regs_of_busy hb
  · exact s.endWait_regs
  · cases hm with
    | command hr => rw [runWord_regs_of_busy hr hb, s.endWait_regs]
    | ignored _ => exact s.endWait_regs
    | read => exact s.endWait_regs
    | reset => cases hb

end Sys2Proof.Machine
end

section
/-! SUPPORT. Proofs about decoding and encoding (30_encoding.md): the reserved operand bits of each format as arithmetic
on the operand, `conf_ok` as arithmetic on the three bytes, and what each of the decoder's refusals needs. -/

namespace Sys2Proof

/-! ## The two halves of a command word -/

theorem opcodeOf_toNat (w : Word) : (opcodeOf w).toNat = w.toNat / 2 ^ 24 := by
  have := w.isLt
  rw [opcodeOf, BitVec.extractLsb'_toNat, Nat.shiftRight_eq_div_pow]
  omega

theorem encode_toNat (i : Instr) : (encode i).toNat = i.opcode.toNat * 2 ^ 24 + i.operand.toNat :=
  Machine.toNat_append_eq_add i.opcode i.operand

/-! ## The reserved operand bits -/

/-- The ones in bits `start` to `start + len - 1` of a word. -/
def fieldMask (start len : Nat) : Word := (BitVec.allOnes len).setWidth 32 <<< start

theorem getLsbD_fieldMask {start len k : Nat} (h : start + len ≤ 32) :
    (fieldMask start len).getLsbD k = decide (start ≤ k ∧ k < start + len) := by
  simp only [fieldMask, BitVec.getLsbD_shiftLeft, BitVec.getLsbD_setWidth, BitVec.getLsbD_allOnes]
  grind

/-- Under a field's mask a word is 0 when the field is. -/
theorem and_fieldMask_eq_zero_iff (w : Word) {start len : Nat} (h : start + len ≤ 32) :
    w &&& fieldMask start len = 0#32 ↔ w.toNat / 2 ^ start % 2 ^ len = 0 := by
  have hfield : (w.extractLsb' start len).toNat = w.toNat / 2 ^ start % 2 ^ len := by
    rw [BitVec.extractLsb'_toNat, Nat.shiftRight_eq_div_pow]
  rw [← hfield]
  constructor
  · intro hmask
    rw [Machine.extractLsb'_eq_zero (x := w) fun i hi => ?_]
    · rfl
    · have hbit := congrArg (·.getLsbD (start + i)) hmask
      simpa [getLsbD_fieldMask h, hi] using hbit
  · intro hzero
    apply BitVec.eq_of_getLsbD_eq
    intro k _
    rw [BitVec.getLsbD_and, getLsbD_fieldMask h, BitVec.getLsbD_zero]
    by_cases hk : start ≤ k ∧ k < start + len
    · have hbit := congrArg (·.getLsbD (k - start)) (BitVec.eq_of_toNat_eq (y := 0#len) hzero)
      simpa [hk, show k - start < len by omega] using hbit
    · simp [hk]

/-- The reserved operand bits of an opcode's format, as (lowest bit, number of bits) (R94 to R99). -/
def reservedFields : Nat → List (Nat × Nat)
  | 0x01 | 0x04 | 0x07 | 0x0A => [(0, 24)]
  | 0x02 => [(19, 5), (1, 1)]
  | 0x03 => [(2, 22)]
  | 0x05 | 0x08 => [(1, 23)]
  | 0x06 | 0x09 => [(4, 20)]
  | 0x0B => [(8, 16), (1, 3)]
  | _ => []

/-- Every reserved operand bit of the word's format is 0. -/
def ReservedClear (w : Word) : Prop :=
  ∀ f ∈ reservedFields (w.toNat / 2 ^ 24), w.toNat / 2 ^ f.1 % 2 ^ f.2 = 0

/-- The mask of several fields. -/
def fieldsMask (fields : List (Nat × Nat)) : Word := fields.foldr (fun f mask => fieldMask f.1 f.2 ||| mask) 0#32

theorem and_fieldsMask_eq_zero_iff (w : Word) {fields : List (Nat × Nat)} (h : ∀ f ∈ fields, f.1 + f.2 ≤ 32) :
    w &&& fieldsMask fields = 0#32 ↔ ∀ f ∈ fields, w.toNat / 2 ^ f.1 % 2 ^ f.2 = 0 := by
  induction fields with
  | nil => simp [fieldsMask]
  | cons f fields ih =>
    rw [List.forall_mem_cons] at h ⊢
    rw [← ih h.2, ← and_fieldMask_eq_zero_iff w h.1, ← BitVec.or_eq_zero_iff, ← BitVec.and_or_distrib_left]
    rfl

theorem reservedFields_le (opc : Nat) : ∀ f ∈ reservedFields opc, f.1 + f.2 ≤ 32 := by
  unfold reservedFields
  split <;> decide

/-- The masks of R100 are those of the formats' reserved bits. -/
theorem reservedMask_eq_fieldsMask {opc : Byte} {mask : Word} (h : reservedMask opc = some mask) :
    mask = fieldsMask (reservedFields opc.toNat) := by
  unfold reservedMask at h
  split at h <;> cases h
  all_goals
    next hopc => rw [hopc]; rfl

theorem and_reservedMask_eq_zero_iff {w mask : Word} (h : reservedMask (opcodeOf w) = some mask) :
    w &&& mask = 0#32 ↔ ReservedClear w := by
  rw [reservedMask_eq_fieldsMask h, and_fieldsMask_eq_zero_iff w (reservedFields_le _), opcodeOf_toNat]
  rfl

/-! ## What the decoder answers -/

/-- The opcodes of R92 are those with a mask. -/
theorem reservedMask_isSome_iff (opc : Byte) : (reservedMask opc).isSome = true ↔ 1 ≤ opc.toNat ∧ opc.toNat ≤ 11 := by
  unfold reservedMask
  split <;> grind

theorem fieldsOf_isSome_iff (w : Word) :
    (fieldsOf w).isSome = true ↔ 1 ≤ (opcodeOf w).toNat ∧ (opcodeOf w).toNat ≤ 11 := by
  unfold fieldsOf
  split <;> grind

theorem decode_reservedOpcode {w : Word} (h : w.toNat / 2 ^ 24 = 0 ∨ 0x0C ≤ w.toNat / 2 ^ 24) :
    decode w = .error .reservedOpcode := by
  have hmask : reservedMask (opcodeOf w) = none := by
    rw [← Option.not_isSome_iff_eq_none, reservedMask_isSome_iff, opcodeOf_toNat]
    omega
  simp [decode, hmask]

theorem decode_reservedBit {w : Word} (hopc : 1 ≤ w.toNat / 2 ^ 24 ∧ w.toNat / 2 ^ 24 ≤ 11) (h : ¬ReservedClear w) :
    decode w = .error .reservedBit := by
  rw [← opcodeOf_toNat] at hopc
  obtain ⟨mask, hmask⟩ := Option.isSome_iff_exists.1 ((reservedMask_isSome_iff _).2 hopc)
  obtain ⟨i, hi⟩ := Option.isSome_iff_exists.1 ((fieldsOf_isSome_iff w).2 hopc)
  rw [← and_reservedMask_eq_zero_iff hmask] at h
  simp [decode, hmask, hi, h]

theorem decode_ok_iff_reservedClear (w : Word) (i : Instr) :
    decode w = .ok i ↔ fieldsOf w = some i ∧ ReservedClear w ∧ i.wellFormed = true := by
  rw [decode_ok_iff]
  constructor
  · rintro ⟨mask, hmask, hi, hclear, hwf⟩
    exact ⟨hi, (and_reservedMask_eq_zero_iff hmask).1 hclear, hwf⟩
  · rintro ⟨hi, hclear, hwf⟩
    obtain ⟨mask, hmask⟩ := Option.isSome_iff_exists.1 <|
      (reservedMask_isSome_iff _).2 ((fieldsOf_isSome_iff w).1 (by rw [hi]; rfl))
    exact ⟨mask, hmask, hi, (and_reservedMask_eq_zero_iff hmask).2 hclear, hwf⟩

/-! ## Encoding after decoding -/

theorem opcode_of_fieldsOf {w : Word} {i : Instr} (h : fieldsOf w = some i) : i.opcode.toNat = w.toNat / 2 ^ 24 := by
  rw [← opcodeOf_toNat]
  unfold fieldsOf at h
  split at h <;> cases h
  all_goals
    next hopc => rw [hopc]; rfl

theorem bit_tempUnitOf_toNat (w : Word) : (tempUnitOf (w.getLsbD 0)).bit.toNat = w.toNat % 2 := by
  have hbit : w.getLsbD 0 = decide (w.toNat % 2 = 1) := by simp [BitVec.getLsbD, Nat.testBit_zero]
  rw [hbit]
  rcases Nat.mod_two_eq_zero_or_one w.toNat with h | h <;> rw [h] <;> rfl

/-- With the reserved bits 0, the fields are the whole operand. -/
theorem operand_of_fieldsOf {w : Word} {i : Instr} (h : fieldsOf w = some i) (hclear : ReservedClear w) :
    i.operand.toNat = w.toNat % 2 ^ 24 := by
  unfold ReservedClear at hclear
  rw [← opcodeOf_toNat] at hclear
  unfold fieldsOf at h
  split at h <;> cases h
  all_goals
    next hopc =>
    simp only [hopc, reservedFields, List.forall_mem_cons] at hclear
    simp only [Instr.operand, Machine.toNat_append_eq_add, BitVec.toNat_ofNat, BitVec.extractLsb'_toNat,
      Nat.shiftRight_eq_div_pow, bit_tempUnitOf_toNat]
    omega

/-! ## CONFIGURE's operand -/

/-- `conf_ok` by the numbers of the three bytes (30_encoding.md R104). -/
theorem confOk_iff (hum meas cfg : Byte) :
    confOk hum meas cfg = true ↔
      hum.toNat / 8 = 0 ∧ hum.toNat % 8 ≤ 5 ∧ meas.toNat / 32 ≤ 5 ∧ meas.toNat / 4 % 8 ≤ 5 ∧ meas.toNat % 4 ≠ 2 ∧
        cfg.toNat / 4 % 8 ≤ 4 ∧ cfg.toNat / 2 % 2 = 0 := by
  have hhum := hum.isLt
  have hmeas := meas.isLt
  simp only [confOk, ctrlHumOk, ctrlMeasOk, configOk, oversamplingOk, modeOk, filterOk, Bool.and_eq_true,
    decide_eq_true_eq, beq_iff_eq, bne_iff_ne, Bool.not_eq_true', ne_eq, ← BitVec.toNat_inj, BitVec.extractLsb'_toNat,
    Nat.shiftRight_eq_div_pow, BitVec.getLsbD, Nat.testBit_eq_decide_div_mod_eq, decide_eq_false_iff_not,
    BitVec.toNat_ofNat]
  omega

/-- Every line of R104 on the operand `op` of a CONFIGURE word. -/
def ConfOperandOk (op : Nat) : Prop :=
  op / 2 ^ 19 = 0 ∧ op / 2 ^ 16 % 8 ≤ 5 ∧ op / 2 ^ 13 % 8 ≤ 5 ∧ op / 2 ^ 10 % 8 ≤ 5 ∧ op / 2 ^ 8 % 4 ≠ 2 ∧
    op / 4 % 8 ≤ 4 ∧ op / 2 % 2 = 0

/-- The CONFIGURE of an operand's three bytes (R95). -/
def configureOf (op : Nat) : Instr := .configure (.ofNat 8 (op / 2 ^ 16)) (.ofNat 8 (op / 2 ^ 8)) (.ofNat 8 op)

theorem configureOf_wellFormed_iff {op : Nat} (hop : op < 2 ^ 24) :
    (configureOf op).wellFormed = true ↔ ConfOperandOk op := by
  rw [configureOf, Instr.wellFormed, confOk_iff, ConfOperandOk]
  simp only [BitVec.toNat_ofNat]
  omega

section
variable {w : Word} {op : Nat} (hw : w.toNat = 0x02 * 2 ^ 24 + op) (hop : op < 2 ^ 24)
include hw hop

theorem fieldsOf_configure : fieldsOf w = some (configureOf op) := by
  have hopc : (opcodeOf w).toNat = 0x02 := by rw [opcodeOf_toNat]; omega
  simp only [fieldsOf, hopc, configureOf]
  congr 2 <;>
  · apply BitVec.eq_of_toNat_eq
    rw [BitVec.extractLsb'_toNat, BitVec.toNat_ofNat, Nat.shiftRight_eq_div_pow]
    omega

theorem reservedClear_configure_iff : ReservedClear w ↔ op / 2 ^ 19 = 0 ∧ op / 2 % 2 = 0 := by
  have hopc : w.toNat / 2 ^ 24 = 0x02 := by omega
  simp only [ReservedClear, hopc, reservedFields, List.forall_mem_cons, List.not_mem_nil, false_imp_iff, implies_true,
    and_true]
  omega

/-- A word of CONFIGURE's opcode decodes, to the three bytes, exactly when its operand satisfies R104. -/
theorem decode_configure_iff (i : Instr) : decode w = .ok i ↔ i = configureOf op ∧ ConfOperandOk op := by
  rw [decode_ok_iff_reservedClear, fieldsOf_configure hw hop, reservedClear_configure_iff hw hop, Option.some.injEq,
    eq_comm]
  refine and_congr_right ?_
  rintro rfl
  rw [configureOf_wellFormed_iff hop]
  refine and_iff_right_of_imp fun hok => ?_
  obtain ⟨hhum, -, -, -, -, -, hcfg⟩ := hok
  exact ⟨hhum, hcfg⟩

end

/-! ## SETMODE's operand -/

theorem decode_setmode : ∀ m < 4, decode (.ofNat 32 (0x03000000 + m)) =
    if m = 2 then .error .operandValue else .ok (.setmode (.ofNat 2 m)) := by
  decide

/-! ## Decoding after encoding -/

/-- The family Encodes, for every command. -/
theorem Laws.Encodes.statement (i : Instr) : Statement i := by
  cases i with
  | init => exact init
  | configure hum meas cfg => exact configure hum meas cfg
  | setmode mode => exact setmode mode
  | readraw => exact readraw
  | compt tu => exact compt tu
  | compp pu => exact compp pu
  | comph => exact comph
  | readt tu => exact readt tu
  | readp pu => exact readp pu
  | readh => exact readh
  | readall tu pu => exact readall tu pu

end Sys2Proof

namespace Sys2Proof.Machine

/-- A word that decodes to no command is refused (30_encoding.md R100). -/
theorem runWord_refused_of_not_ok {w : Word} {s : State} (h : ∀ i, decode w ≠ .ok i) (hp : s.phase = .idle)
    (ho : GoesOn s.oracle) : runWord w s = .next s.refused := by
  cases hd : decode w with
  | ok i => exact absurd hd (h i)
  | error e => exact runWord_refused hd hp ho

/-- Settles O1: the word of a well-formed command carries its opcode and its fields, and has no reserved bit at 1. -/
theorem decodeOfEncodeIsTheCommand : Obligations.DecodeOfEncodeIsTheCommand := by
  unfold Obligations.DecodeOfEncodeIsTheCommand
  intro i hwf
  obtain ⟨hopc, hfields, hmask⟩ := Laws.Encodes.statement i hwf
  obtain ⟨mask, hsome, hclear⟩ := Option.map_eq_some_iff.1 hmask
  exact (decode_ok_iff _ _).2 ⟨mask, by rw [hopc, hsome], hfields, hclear, hwf⟩

/-- Settles O2: with no reserved bit at 1, the opcode and the fields of the command are the whole word. -/
theorem encodeOfDecodeIsTheWord : Obligations.EncodeOfDecodeIsTheWord := by
  unfold Obligations.EncodeOfDecodeIsTheWord
  intro w i h
  obtain ⟨hfields, hclear, -⟩ := (decode_ok_iff_reservedClear w i).1 h
  apply BitVec.eq_of_toNat_eq
  rw [encode_toNat, opcode_of_fieldsOf hfields, operand_of_fieldsOf hfields hclear]
  omega

/-- Settles O3: the decoder's first refusal. -/
theorem reservedOpcodesAreIllegal : Obligations.ReservedOpcodesAreIllegal := by
  unfold Obligations.ReservedOpcodesAreIllegal
  intro w s hopc hp ho
  have hd := decode_reservedOpcode hopc
  exact ⟨hd, runWord_refused hd hp ho⟩

/-- Settles O4: the decoder's second refusal, format by format. -/
theorem reservedBitsAreIllegal : Obligations.ReservedBitsAreIllegal := by
  unfold Obligations.ReservedBitsAreIllegal
  intro w s opc op hopc hop hbits hp ho
  have hlegal : 1 ≤ w.toNat / 2 ^ 24 ∧ w.toNat / 2 ^ 24 ≤ 11 := by omega
  have hclear : ¬ReservedClear w := by
    intro hclear
    unfold ReservedClear at hclear
    rw [← hopc] at hclear
    rcases hbits with ⟨rfl | rfl | rfl | rfl, hb⟩ | ⟨rfl, hb⟩ | ⟨rfl, hb⟩ | ⟨rfl | rfl, hb⟩ | ⟨rfl | rfl, hb⟩ |
      ⟨rfl, hb⟩ <;>
    · simp only [reservedFields, List.forall_mem_cons] at hclear
      omega
  have hd := decode_reservedBit hlegal hclear
  exact ⟨hd, runWord_refused hd hp ho⟩

/-- Settles O5: CONFIGURE's word decodes exactly when its operand satisfies R104, and any other word is refused. -/
theorem configureOperandsAreChecked : Obligations.ConfigureOperandsAreChecked := by
  unfold Obligations.ConfigureOperandsAreChecked
  intro w s op hw hop hp ho
  exact ⟨fun hok => (decode_configure_iff hw hop _).2 ⟨rfl, hok⟩, fun hbad =>
    runWord_refused_of_not_ok (fun i hd => hbad ((decode_configure_iff hw hop i).1 hd).2) hp ho⟩

/-- Settles O6, over the four modes. -/
theorem setmodeRefusesModeTen : Obligations.SetmodeRefusesModeTen := by
  unfold Obligations.SetmodeRefusesModeTen
  intro m s hm hp ho
  have hd := decode_setmode m hm
  exact ⟨fun h => by rw [hd, if_neg h], fun h => runWord_refused (by rw [hd, if_pos h]) hp ho⟩

/-- Settles O7, word by word. -/
theorem writtenOutWordsDecode : Obligations.WrittenOutWordsDecode := by
  unfold Obligations.WrittenOutWordsDecode
  decide

/-- Settles O8: the command of each line, and its word. -/
theorem workedEncodingsAssemble : Obligations.WorkedEncodingsAssemble := by
  unfold Obligations.WorkedEncodingsAssemble
  exact ⟨⟨.configure 0x01#8 0x57#8 0x10#8, by decide +kernel, by decide⟩,
    ⟨.readall .fahrenheit 1#4, by decide +kernel, by decide⟩, ⟨.compp 7#4, by decide +kernel, by decide⟩,
    ⟨trigger, by decide +kernel, by decide⟩⟩

end Sys2Proof.Machine
end

section
/-! SUPPORT. The invariant (`State.Inv`): what each command's sequence does to a staged copy that keeps it, and the
induction over a step's moves. -/

namespace Sys2Proof.Machine

/-! ## SETMODE's value keeps the shadow legal (40_configurator.md R132) -/

/-- SETMODE reaches no bit above the mode field. -/
theorem setmodeValue_extractLsb' (p : Config.Params) (x : Byte) (mode : BitVec 2) {start : Nat}
    (hstart : start = 2 ∨ start = 5) : (setmodeValue p x mode).extractLsb' start 3 = x.extractLsb' start 3 := by
  have hmask : (0xFC#8).extractLsb' start 3 = BitVec.allOnes 3 := by rcases hstart with rfl | rfl <;> rfl
  have hmode : (mode.zeroExtend 8).extractLsb' start 3 = 0#3 := by
    rcases hstart with rfl | rfl <;> revert mode <;> decide
  unfold setmodeValue
  split <;> simp only [BitVec.extractLsb'_or, BitVec.extractLsb'_and, hmask, hmode, BitVec.and_allOnes, BitVec.or_zero]

/-- The new mode field: the old one or 0, joined with the given mode. -/
theorem setmodeValue_mode (p : Config.Params) (x : Byte) (mode : BitVec 2) :
    (setmodeValue p x mode).extractLsb' 0 2 =
      (if p.setmodeClearsMode then 0#2 else x.extractLsb' 0 2) ||| mode := by
  have hmask : (0xFC#8).extractLsb' 0 2 = 0#2 := rfl
  have hmode : (mode.zeroExtend 8).extractLsb' 0 2 = mode := by revert mode; decide
  unfold setmodeValue
  split <;> simp only [BitVec.extractLsb'_or, BitVec.extractLsb'_and, hmask, hmode, BitVec.and_zero]

/-- Two legal modes never join to the reserved one: 00, 01 and 11 are closed under `or`. -/
theorem modeOk_or : ∀ a b : BitVec 2, modeOk a = true → modeOk b = true → modeOk (a ||| b) = true := by decide

theorem ctrlMeasOk_setmodeValue {p : Config.Params} {x : Byte} {mode : BitVec 2} (hx : ctrlMeasOk x = true)
    (hmode : modeOk mode = true) : ctrlMeasOk (setmodeValue p x mode) = true := by
  simp only [ctrlMeasOk, Bool.and_eq_true] at hx ⊢
  obtain ⟨⟨ht, hp⟩, hm⟩ := hx
  rw [setmodeValue_extractLsb' p x mode (.inl rfl), setmodeValue_extractLsb' p x mode (.inr rfl), setmodeValue_mode]
  refine ⟨⟨ht, hp⟩, modeOk_or _ _ ?_ hmode⟩
  split
  · rfl
  · exact hm

theorem Regs.ShadowOk.setmode {S : Regs} (h : S.ShadowOk) (p : Config.Params) {mode : BitVec 2}
    (hmode : modeOk mode = true) : { S with ctrlMeas := setmodeValue p S.ctrlMeas mode }.ShadowOk := by
  simp only [Regs.ShadowOk, confOk, Bool.and_eq_true] at h ⊢
  obtain ⟨⟨hhum, hmeas⟩, hcfg⟩ := h
  exact ⟨⟨hhum, ctrlMeasOk_setmodeValue hmeas hmode⟩, hcfg⟩

/-! ## The sampling invariants under each update (41_sampler.md R166) -/

section
variable {S : Regs}

/-- The sampling invariants speak of none of these fields. -/
theorem Regs.Sampled.with_others (h : S.Sampled) (err : ErrorCode) (aovf aovfAny : Bool) (chipId hum meas cfg : Byte)
    (tunit : TempUnit) (punit : BitVec 4) :
    { S with err := err, aovf := aovf, aovfAny := aovfAny, chipId := chipId, ctrlHum := hum, ctrlMeas := meas,
             config := cfg, tunit := tunit, punit := punit }.Sampled :=
  ⟨h.raw, h.tfine, h.temp, h.pres, h.hum⟩

/-- A block that is not ready has nothing valid, so its table and READY are free to change. -/
theorem Regs.Sampled.with_table (h : S.Sampled) (hready : S.ready = false) (ready : Bool) (cal : Vector Byte 32) :
    { S with ready := ready, cal := cal }.Sampled := by
  have hraw : S.rawValid = false := Bool.eq_false_iff.2 fun hv => by simp [h.raw hv] at hready
  have htfine : S.tfineValid = false := Bool.eq_false_iff.2 fun hv => by simp [(h.tfine hv).1] at hraw
  exact .of_invalid hraw htfine (Bool.eq_false_iff.2 fun hv => by simp [(h.temp hv).1] at htfine)
    (Bool.eq_false_iff.2 fun hv => by simp [(h.pres hv).1] at htfine)
    (Bool.eq_false_iff.2 fun hv => by simp [(h.hum hv).1] at htfine)

theorem Regs.Sampled.invalidate_temp (h : S.Sampled) : { S with tValid := false }.Sampled :=
  ⟨h.raw, h.tfine, nofun, h.pres, h.hum⟩

theorem Regs.Sampled.invalidate_pres (h : S.Sampled) : { S with pValid := false }.Sampled :=
  ⟨h.raw, h.tfine, h.temp, nofun, h.hum⟩

theorem Regs.Sampled.invalidate_hum (h : S.Sampled) : { S with hValid := false }.Sampled :=
  ⟨h.raw, h.tfine, h.temp, h.pres, nofun⟩

/-- A ready block whose flags an acquisition has cleared may take its sample. -/
theorem Regs.sampled_takeSample (hready : S.ready = true) (hclear : S = S.clearSample)
    (b0 b1 b2 b3 b4 b5 b6 b7 : Byte) : (S.takeSample b0 b1 b2 b3 b4 b5 b6 b7).Sampled := by
  rw [hclear]
  exact ⟨fun _ => hready, nofun, nofun, nofun, nofun⟩

/-- T_STEP recomputes t_fine from the same sample, so results computed with a valid old one still stand. -/
theorem Regs.Sampled.tempStep (h : S.Sampled) (hraw : S.rawValid = true) (tu : Option TempUnit) :
    (tempStep tu S).Sampled where
  raw := h.raw
  tfine _ := ⟨hraw, rfl⟩
  temp _ := ⟨rfl, rfl⟩
  pres hv := by
    obtain ⟨htfine, ovf, hp⟩ := h.pres hv
    exact ⟨rfl, ovf, by simpa [(h.tfine htfine).2] using hp⟩
  hum hv := by
    obtain ⟨htfine, hh⟩ := h.hum hv
    exact ⟨rfl, by simpa [(h.tfine htfine).2] using hh⟩

/-- P_STEP: on either outcome, everything it leaves alone and what PVALID says (43_orchestration.md R242). -/
theorem presStep_regs_cases (pu : BitVec 4) (S : Regs) :
    (∃ ovf, presFormula S.adcP S.tFine (coeffs S.cal) = .div0 ovf ∧
      presStep pu S = { regs := { S.addOvf ovf with punit := pu, pValid := false }, code := .divideByZero }) ∨
    (∃ p, presFormula S.adcP S.tFine (coeffs S.cal) = .pressure p ∧
      presStep pu S = { regs := { S.addOvf p.ovf with punit := pu, pOut := p.val, pValid := true }, code := .ok }) := by
  cases hf : presFormula S.adcP S.tFine (coeffs S.cal) with
  | div0 ovf => exact .inl ⟨ovf, rfl, by simp [presStep, hf]⟩
  | pressure p => exact .inr ⟨p, rfl, by simp [presStep, hf]⟩

theorem Regs.Sampled.presStep (h : S.Sampled) (htfine : S.tfineValid = true) (pu : BitVec 4) :
    (presStep pu S).regs.Sampled := by
  rcases presStep_regs_cases pu S with ⟨ovf, -, hP⟩ | ⟨p, hp, hP⟩
  · rw [hP]
    exact ⟨h.raw, h.tfine, h.temp, nofun, h.hum⟩
  · rw [hP]
    exact ⟨h.raw, h.tfine, h.temp, fun _ => ⟨htfine, p.ovf, hp⟩, h.hum⟩

theorem Regs.Sampled.humStep (h : S.Sampled) (htfine : S.tfineValid = true) : (humStep S).Sampled :=
  ⟨h.raw, h.tfine, h.temp, h.pres, fun _ => ⟨htfine, rfl⟩⟩

end

/-! ## A staged copy under each update -/

section
variable {S T : Regs}

/-- The copy taken at acceptance (10_state.md R24). -/
theorem Regs.stages_start (hshadow : S.ShadowOk) (hsampled : S.Sampled) (c : Command) :
    S.Stages (Run.start c S).staged :=
  ⟨hshadow, hsampled.with_others .., fun h => ⟨h, rfl⟩, id⟩

/-- A new staged copy with the old one's READY, table and AOVF_ANY. -/
theorem Regs.Stages.restage {U : Regs} (h : S.Stages T) (hshadow : U.ShadowOk) (hsampled : U.Sampled)
    (hready : U.ready = T.ready) (hcal : U.cal = T.cal) (hany : U.aovfAny = T.aovfAny) : S.Stages U :=
  ⟨hshadow, hsampled, by rw [hready, hcal]; exact h.ready, by rw [hany]; exact h.sticky⟩

theorem Regs.Stages.tempStep (h : S.Stages T) (hraw : T.rawValid = true) (tu : Option TempUnit) :
    S.Stages (tempStep tu T) :=
  h.restage h.shadow (h.sampled.tempStep hraw tu) rfl rfl rfl

theorem Regs.Stages.presStep (h : S.Stages T) (htfine : T.tfineValid = true) (pu : BitVec 4) :
    S.Stages (presStep pu T).regs := by
  have hsampled := h.sampled.presStep htfine pu
  rcases presStep_regs_cases pu T with ⟨ovf, -, hP⟩ | ⟨p, -, hP⟩ <;>
  · rw [hP] at hsampled ⊢
    exact h.restage h.shadow hsampled rfl rfl rfl

theorem Regs.Stages.humStep (h : S.Stages T) (htfine : T.tfineValid = true) : S.Stages (humStep T) :=
  h.restage h.shadow (h.sampled.humStep htfine) rfl rfl rfl

/-- A command that starts not ready may load any table (10_state.md R39). -/
theorem Regs.Stages.with_table (h : S.Stages T) (hready : T.ready = false) (ready : Bool) (cal : Vector Byte 32) :
    S.Stages { T with ready := ready, cal := cal } := by
  refine ⟨h.shadow, h.sampled.with_table hready ready cal, fun hS => ?_, h.sticky⟩
  simp [(h.ready hS).1] at hready

end

/-! ## Each command's sequence -/

/-- The move, taken up beside the committed registers `S`, meets the invariant. -/
abbrev Move.Keeps (S : Regs) (m : Move) : Prop :=
  m.Meets (fun r _ => S.Stages r.staged ∧ r.Waits) (fun r _ => S.Stages r.staged)

/-- INIT may wait while not ready. -/
theorem Run.Waits.of_init {r : Run} (hc : r.command = .legal .init) (hready : r.staged.ready = false) : r.Waits :=
  ⟨fun _ => hready, fun ha => by rw [hc] at ha; cases ha⟩

/-- An acquisition may wait once ready and cleared. -/
theorem Run.Waits.of_acquires {r : Run} (hc : r.command.acquires = true) (hready : r.staged.ready = true)
    (hclear : r.staged = r.staged.clearSample) : r.Waits :=
  ⟨fun h => by (rw [h] at hc; cases hc), fun _ => ⟨hready, hclear⟩⟩

/-- Any other command may wait as it is. -/
theorem Run.Waits.of_other {r : Run} (hi : r.command ≠ .legal .init) (ha : r.command.acquires = false) : r.Waits :=
  ⟨fun h => absurd h hi, fun h => by rw [ha] at h; cases h⟩

theorem dependencyCheck_eq_none_iff (needsTfine : Bool) (S : Regs) : dependencyCheck needsTfine S = none ↔
    S.ready = true ∧ S.rawValid = true ∧ (needsTfine = true → S.tfineValid = true) := by
  unfold dependencyCheck
  split_ifs <;> simp_all

section
variable {S : Regs} {r : Run}

theorem controlWritten_keeps {next : Run → Move} (h : S.Stages r.staged) (hnext : (next r).Keeps S)
    (answer : Option (List Byte)) : (controlWritten next r answer).Keeps S := by
  cases answer with
  | none => exact h
  | some _ => exact hnext

theorem initNext_keeps (hc : r.command = .legal .init) (h : S.Stages r.staged) (hready : r.staged.ready = false) :
    (initNext r).Keeps S := by
  unfold initNext
  split
  · exact ⟨h, .of_init hc hready⟩
  · unfold initEnd
    split
    · exact h.with_table hready ..
    · exact h

theorem initResume_keeps (hc : r.command = .legal .init) (h : S.Stages r.staged) (hready : r.staged.ready = false)
    (answer : Option (List Byte)) : (initResume r answer).Keeps S := by
  unfold initResume
  split
  · unfold initIdentity
    split
    next b _ =>
      have h' : S.Stages { r.staged with chipId := b } := h.restage h.shadow (h.sampled.with_others ..) rfl rfl rfl
      dsimp only
      split
      · exact initNext_keeps (r := r.stage _) hc h' hready
      · exact h'
    · exact h
    · exact h
  · split
    · exact controlWritten_keeps h (initNext_keeps hc h hready) answer
    · unfold initSubRead
      split
      · exact initNext_keeps hc h hready
      · exact initNext_keeps hc h hready

theorem configureNext_keeps (hi : r.command ≠ .legal .init) (ha : r.command.acquires = false) (h : S.Stages r.staged) :
    (configureNext r).Keeps S := by
  unfold configureNext
  split
  · exact ⟨h, .of_other hi ha⟩
  · exact h

theorem comptBegin_keeps (h : S.Stages r.staged) (tu : TempUnit) : (comptBegin tu r).Keeps S := by
  unfold comptBegin
  split
  · exact h.restage h.shadow h.sampled.invalidate_temp rfl rfl rfl
  next hd =>
    obtain ⟨-, hraw, -⟩ := (dependencyCheck_eq_none_iff _ _).1 hd
    exact h.tempStep hraw (some tu)

theorem comppBegin_keeps (h : S.Stages r.staged) (pu : BitVec 4) : (comppBegin pu r).Keeps S := by
  unfold comppBegin
  split
  · exact h.restage h.shadow h.sampled.invalidate_pres rfl rfl rfl
  next hd =>
    obtain ⟨-, -, htfine⟩ := (dependencyCheck_eq_none_iff _ _).1 hd
    exact h.presStep (htfine rfl) pu

theorem comphBegin_keeps (h : S.Stages r.staged) : (comphBegin r).Keeps S := by
  unfold comphBegin
  split
  · exact h.restage h.shadow h.sampled.invalidate_hum rfl rfl rfl
  next hd =>
    obtain ⟨-, -, htfine⟩ := (dependencyCheck_eq_none_iff _ _).1 hd
    exact h.humStep (htfine rfl)

theorem readpAfter_keeps (h : S.Stages r.staged) (hraw : r.staged.rawValid = true) (pu : BitVec 4) :
    (readpAfter pu r).Keeps S :=
  (h.tempStep hraw none).presStep rfl pu

theorem readhAfter_keeps (h : S.Stages r.staged) (hraw : r.staged.rawValid = true) : (readhAfter r).Keeps S :=
  (h.tempStep hraw none).humStep rfl

@[simp] theorem presStep_regs_tfineValid (pu : BitVec 4) (S : Regs) :
    (presStep pu S).regs.tfineValid = S.tfineValid := by
  rcases presStep_regs_cases pu S with ⟨_, -, hP⟩ | ⟨_, -, hP⟩ <;> rw [hP] <;> rfl

theorem readallAfter_keeps (h : S.Stages r.staged) (hraw : r.staged.rawValid = true) (tu : TempUnit) (pu : BitVec 4) :
    (readallAfter tu pu r).Keeps S :=
  ((h.tempStep hraw (some tu)).presStep rfl pu).humStep (presStep_regs_tfineValid ..)

theorem acquireBegin_keeps (ha : r.command.acquires = true) (h : S.Stages r.staged) (p : Config.Params) :
    (acquireBegin p r).Keeps S := by
  have hclear : S.Stages r.staged.clearSample :=
    h.restage h.shadow (.of_invalid rfl rfl rfl rfl rfl) rfl rfl rfl
  unfold acquireBegin
  dsimp only
  split
  next hready =>
    split
    · exact ⟨hclear.restage (hclear.shadow.setmode p rfl) (hclear.sampled.with_others ..) rfl rfl rfl,
        .of_acquires ha hready rfl⟩
    · exact ⟨hclear, .of_acquires ha hready rfl⟩
  · exact hclear

/-- An acquisition goes on to the burst, or to what follows its sample. -/
theorem acquireResume_keeps {after : Run → Move}
    (hafter : ∀ r : Run, S.Stages r.staged → r.staged.rawValid = true → (after r).Keeps S)
    (ha : r.command.acquires = true) (h : S.Stages r.staged) (hw : r.Waits) (txn : Txn)
    (answer : Option (List Byte)) : (acquireResume after txn r answer).Keeps S := by
  obtain ⟨hready, hclear⟩ := hw.acquire ha
  unfold acquireResume
  split
  · exact controlWritten_keeps (next := .issue burstTxn) h ⟨h, hw⟩ answer
  · unfold burstAnswered
    split
    · exact hafter _ (h.restage h.shadow (Regs.sampled_takeSample hready hclear ..) rfl rfl rfl) rfl
    · exact h

/-- The beginning of every well-formed command. -/
theorem begins_keeps {i : Instr} (hwf : i.wellFormed = true) (hc : r.command = .legal i) (h : S.Stages r.staged)
    (p : Config.Params) : (begins p i r).Keeps S := by
  have ha : r.command.acquires = (Command.legal i).acquires := by rw [hc]
  cases i with
  | init =>
    show (initBegin r).Keeps S
    unfold initBegin
    split
    · exact h
    next hready => exact initNext_keeps hc h (by simpa using hready)
  | configure hum meas cfg =>
    exact configureNext_keeps (r := r.stage _) (by simp [hc]) ha
      (h.restage hwf (h.sampled.with_others ..) rfl rfl rfl)
  | setmode mode =>
    exact ⟨h.restage (h.shadow.setmode p hwf) (h.sampled.with_others ..) rfl rfl rfl, .of_other (by simp [hc]) ha⟩
  | compt tu => exact comptBegin_keeps h tu
  | compp pu => exact comppBegin_keeps h pu
  | comph => exact comphBegin_keeps h
  | readraw => exact acquireBegin_keeps ha h p
  | readt tu => exact acquireBegin_keeps ha h p
  | readp pu => exact acquireBegin_keeps ha h p
  | readh => exact acquireBegin_keeps ha h p
  | readall tu pu => exact acquireBegin_keeps ha h p

/-- The continuation of every command. -/
theorem Run.resume_keeps (h : S.Stages r.staged) (hw : r.Waits) (txn : Txn) (answer : Option (List Byte)) :
    (r.resume txn answer).Keeps S := by
  have hacquire (ha : r.command.acquires = true) (after : Run → Move)
      (hafter : ∀ r : Run, S.Stages r.staged → r.staged.rawValid = true → (after r).Keeps S) :
      (acquireResume after txn r answer).Keeps S := acquireResume_keeps hafter ha h hw txn answer
  unfold Run.resume
  cases hc : r.command with
  | illegal w => exact h
  | legal i =>
    have ha : r.command.acquires = (Command.legal i).acquires := by rw [hc]
    cases i with
    | init => exact initResume_keeps hc h (hw.init hc) answer
    | configure hum meas cfg => exact controlWritten_keeps h (configureNext_keeps (by simp [hc]) ha h) answer
    | setmode mode => exact controlWritten_keeps (next := .finish .ok) h h answer
    | compt tu => exact comptBegin_keeps h tu
    | compp pu => exact comppBegin_keeps h pu
    | comph => exact comphBegin_keeps h
    | readraw => exact hacquire ha _ fun _ h' _ => h'
    | readt tu => exact hacquire ha _ fun _ h' hraw => h'.tempStep hraw (some tu)
    | readp pu => exact hacquire ha _ fun _ h' hraw => readpAfter_keeps h' hraw pu
    | readh => exact hacquire ha _ fun _ h' hraw => readhAfter_keeps h' hraw
    | readall tu pu => exact hacquire ha _ fun _ h' hraw => readallAfter_keeps h' hraw tu pu

end

/-! ## Each move of a step -/

section
variable {s : State}

/-- An idle block stages nothing. -/
theorem State.Inv.of_idle (hp : s.phase = .idle) (hparams : s.params.wellFormed = true) (hshadow : s.regs.ShadowOk)
    (hsampled : s.regs.Sampled) (hsensor : s.sensor.wf) : s.Inv where
  params := hparams
  shadow := hshadow
  sampled := hsampled
  waiting _ _ h := by rw [hp] at h; cases h
  finishing _ _ h := by rw [hp] at h; cases h
  sensor := hsensor

theorem State.Inv.take (h : s.Inv) {m : Move} (hm : m.Keeps s.regs) : (s.take m).Inv := by
  cases m with
  | issue txn run =>
    refine ⟨h.params, h.shadow, h.sampled, fun r txn hp => ?_, fun r code hp => ?_, h.sensor⟩ <;>
      rw [State.take_issue_phase] at hp <;> cases hp
    exact hm
  | finish code run =>
    refine ⟨h.params, h.shadow, h.sampled, fun r txn hp => ?_, fun r code hp => ?_, h.sensor⟩ <;>
      rw [State.take_finish_phase] at hp <;> cases hp
    exact hm

theorem State.Inv.commit {run : Run} {code : ErrorCode} (h : s.Inv) (hp : s.phase = .finishing run code) :
    (s.commit run code).Inv := by
  have hstaged := h.finishing run code hp
  exact .of_idle rfl h.params hstaged.shadow (hstaged.sampled.with_others ..) h.sensor

theorem State.Inv.blockStep (h : s.Inv) (hc : s.canMove = true) : s.blockStep.Inv := by
  rcases State.canMove_cases hc with ⟨run, txn, success, bytes, rest, hp, ho⟩ | ⟨run, code, hp, -⟩
  · obtain ⟨hstages, hwaits⟩ := h.waiting run txn hp
    have hsensor := txn.effect_wf (txn.outcome success bytes) s.sensor h.sensor
    rw [State.blockStep_answer hp ho]
    exact State.Inv.take (s := { s with oracle := rest, sensor := txn.effect (txn.outcome success bytes) s.sensor })
      ⟨h.params, h.shadow, h.sampled, h.waiting, h.finishing, hsensor⟩
      (Run.resume_keeps (r := run.answered) hstages ⟨hwaits.init, hwaits.acquire⟩ _ _)
  · rw [State.blockStep_finishing hp]
    exact h.commit hp

theorem State.Inv.platformReset (h : s.Inv) : s.platformReset.Inv := by
  refine .of_idle rfl h.params h.params (.of_invalid rfl rfl rfl rfl rfl) ?_
  unfold State.platformReset
  dsimp only
  split
  · exact Txn.effect_wf _ _ _ h.sensor
  · exact h.sensor
  · exact h.sensor

/-- The copy a command takes at its acceptance meets the invariant. -/
theorem State.Inv.stages_start (h : s.Inv) (c : Command) : s.regs.Stages (Run.start c s.regs).staged :=
  Regs.stages_start h.shadow h.sampled c

end

theorem stepKeeps_inv : StepKeeps State.Inv where
  block _ hc h := h.blockStep hc
  inputs _ _ h := ⟨h.params, h.shadow, h.sampled, h.waiting, h.finishing, h.sensor⟩
  oracle _ _ h := ⟨h.params, h.shadow, h.sampled, h.waiting, h.finishing, h.sensor⟩
  read _ _ h := ⟨h.params, h.shadow, h.sampled, h.waiting, h.finishing, h.sensor⟩
  reset _ h := h.platformReset
  overrun _ h := ⟨h.params, h.shadow, h.sampled, h.waiting, h.finishing, h.sensor⟩
  begins _ _ hwf _ h := h.take (begins_keeps hwf rfl (h.stages_start _) _)
  refuses _ _ _ h := h.take (h.stages_start _)

/-- Settles O51, by the induction over a step's moves. -/
theorem everyStepKeepsTheInvariant : Obligations.EveryStepKeepsTheInvariant := by
  unfold Obligations.EveryStepKeepsTheInvariant
  intro s t hs h
  exact stepKeeps_inv.step h hs

/-- The invariant holds of every reachable state. -/
theorem Reachable.inv {s : State} (h : Reachable s) : s.Inv := by
  induction h with
  | reset p inputs oracle legal => exact resetMeetsTheInvariant p inputs oracle legal
  | step s t _ hstep ih => exact stepKeeps_inv.step hstep ih

/-- Settles O53, from the invariant of every reachable state. -/
theorem shadowStaysLegal : Obligations.ShadowStaysLegal := by
  unfold Obligations.ShadowStaysLegal
  intro s h
  have hshadow : confOk s.regs.ctrlHum s.regs.ctrlMeas s.regs.config = true := h.inv.shadow
  have hmeas := hshadow
  simp only [confOk, ctrlMeasOk, modeOk, Bool.and_eq_true, bne_iff_ne] at hmeas
  obtain ⟨⟨-, -, hmode⟩, -⟩ := hmeas
  exact ⟨hshadow, hmode⟩

end Sys2Proof.Machine
end

section
/-! SUPPORT. Proofs about the configurator (40_configurator.md): one rule for a transaction answered and one for a
`finish` reached, then INIT, CONFIGURE and SETMODE run along their transactions, and what none of them touches. -/

namespace Sys2Proof.Machine

/-! ## One transaction, and the finish -/

/-- The state once transaction `txn` has been issued and answered, `rest` being left of the oracle. -/
def State.transacted (s : State) (txn : Txn) (answer : Option (List Byte)) (rest : List Reply) : State :=
  { s with oracle := rest, sensor := txn.effect answer s.sensor, bus := txn :: s.bus }

/-- An issued transaction whose answer is at hand is answered, and the command's continuation goes on. -/
theorem State.settle_take_issue {s : State} {txn : Txn} {run : Run} {success : Bool} {bytes : List Byte}
    {rest : List Reply} (ho : s.oracle = .answer success bytes :: rest) {answer : Option (List Byte)}
    (ha : txn.outcome success bytes = answer) :
    (s.take (.issue txn run)).settle = ((s.transacted txn answer rest).take (run.answered.resume txn answer)).settle := by
  subst ha
  rw [State.settle_answer (s := s.take (.issue txn run)) rfl ho]
  unfold State.answered
  dsimp only
  cases run.answered.resume txn (txn.outcome success bytes) <;> rfl

/-- A command that has reached its `finish` without an overflow commits, unless the host has the turn. (Uses give `hp` as
`by exact hp`, so that it is checked once the goal has fixed `s`.) -/
theorem State.settle_take_finish {s : State} (hp : s.phase = .idle) (ho : GoesOn s.oracle) {code : ErrorCode}
    {run : Run} (hovf : run.staged.aovf = false) :
    (s.take (.finish code run)).settle = { s with regs := { run.staged with err := code } } := by
  rw [State.settle_finishing (s := s.take (.finish code run)) rfl ho]
  simp [State.commit, State.take, Regs.finished, hovf, hp]

/-- An idle block accepts the command and moves along its sequence. -/
theorem exec_idle {s t : State} (hp : s.phase = .idle) {i : Instr}
    (ht : (s.take (begins s.params i (Run.start (.legal i) s.regs))).settle = t) : exec i s = .next t := by
  rw [exec_eq_accept, State.accept_idle hp, ht]

/-! ## The three control writes -/

/-- A control write is a write of one of the three control registers. -/
theorem Regs.controlWrite_cases {S : Regs} {k : Nat} {txn : Txn} (h : S.controlWrite k = some txn) :
    txn = .write Config.ctrlHumAddr S.ctrlHum ∨ txn = .write Config.ctrlMeasAddr S.ctrlMeas ∨
      txn = .write Config.configAddr S.config := by
  unfold Regs.controlWrite at h
  split at h <;> cases h <;> simp

theorem Regs.controlWrite_lt {S : Regs} {k : Nat} {txn : Txn} (h : S.controlWrite k = some txn) : k < 3 := by
  unfold Regs.controlWrite at h
  split at h
  case h_4 => cases h
  all_goals omega

/-- An answer to a control write is ok or fail by its success flag alone (20_memory.md R68). -/
theorem Regs.controlWrite_outcome {S : Regs} {k : Nat} {txn : Txn} (h : S.controlWrite k = some txn) (success : Bool)
    (bytes : List Byte) : txn.outcome success bytes = if success then some [] else none := by
  rcases Regs.controlWrite_cases h with rfl | rfl | rfl <;> rfl

/-- In command `c`, `next` issues the three control writes, beginning with the transaction of index `base`. -/
structure WritesControls (c : Command) (next : Run → Move) (base : Nat) : Prop where
  issues : ∀ (r : Run) (k : Nat) (txn : Txn), r.index = base + k → r.staged.controlWrite k = some txn →
    next r = .issue txn r
  resumes : ∀ (r : Run) (k : Nat) (txn : Txn) (answer : Option (List Byte)), r.command = c → k < 3 →
    r.index = base + k + 1 → r.resume txn answer = controlWritten next r answer

theorem writesControls_init : WritesControls (.legal .init) initNext 1 where
  issues r k txn hi hk := by
    have hlt := Regs.controlWrite_lt hk
    unfold initNext
    have ht : initTxn r.staged (1 + k) = some txn := by
      rw [← hk]
      interval_cases k <;> rfl
    rw [hi, ht]
  resumes r k txn answer hc hk hi := by
    simp only [Run.resume, hc, initResume]
    rw [if_neg (by omega), if_pos (by omega)]

theorem writesControls_configure (hum meas cfg : Byte) :
    WritesControls (.legal (.configure hum meas cfg)) configureNext 0 where
  issues r k txn hi hk := by
    unfold configureNext
    rw [hi, Nat.zero_add, hk]
  resumes r k txn answer hc _ _ := by
    simp only [Run.resume, hc, configureResume]

section
variable {c : Command} {next : Run → Move} {base : Nat} (h : WritesControls c next base) {s : State} {r : Run} (k : Nat)
  {txn : Txn} {bytes : List Byte} {rest : List Reply} (hc : r.command = c) (hi : r.index = base + k)
  (ht : r.staged.controlWrite k = some txn)
include h hc hi ht

theorem State.settle_controlWrite {success : Bool} (ho : s.oracle = .answer success bytes :: rest)
    {answer : Option (List Byte)} (ha : (if success then some [] else none) = answer) :
    (s.take (next r)).settle =
      ((s.transacted txn answer rest).take (controlWritten next r.answered answer)).settle := by
  rw [h.issues r k txn hi ht, State.settle_take_issue ho ((Regs.controlWrite_outcome ht success bytes).trans ha),
    h.resumes r.answered k txn answer hc (Regs.controlWrite_lt ht) (congrArg (· + 1) hi)]

/-- An acknowledged control write: the command goes on. -/
theorem State.settle_controlWrite_ok (ho : s.oracle = .answer true bytes :: rest) :
    (s.take (next r)).settle = ((s.transacted txn (some []) rest).take (next r.answered)).settle :=
  State.settle_controlWrite h k hc hi ht ho rfl

/-- A failed control write: the command ends (40_configurator.md R122, R129). -/
theorem State.settle_controlWrite_fail (ho : s.oracle = .answer false bytes :: rest) (hp : s.phase = .idle)
    (hg : GoesOn rest) (hovf : r.staged.aovf = false) :
    (s.take (next r)).settle =
      { s.transacted txn none rest with regs := { r.staged with err := .transportWriteError } } := by
  rw [State.settle_controlWrite h k hc hi ht ho rfl]
  exact State.settle_take_finish (by exact hp) hg hovf

end

/-! ## CONFIGURE -/

/-- CONFIGURE's run before its first write: the shadow holds the new bytes (40_configurator.md R128). -/
def configureRun (hum meas cfg : Byte) (S : Regs) : Run :=
  (Run.start (.legal (.configure hum meas cfg)) S).stage
    { S with ctrlHum := hum, ctrlMeas := meas, config := cfg, aovf := false }

theorem exec_configure {s t : State} (hp : s.phase = .idle) {hum meas cfg : Byte}
    (ht : (s.take (configureNext (configureRun hum meas cfg s.regs))).settle = t) :
    exec (.configure hum meas cfg) s = .next t :=
  exec_idle hp ht

/-- Settles O21: three acknowledged writes, then the finish. -/
theorem configureWritesTheThreeBytes : Obligations.ConfigureWritesTheThreeBytes := by
  unfold Obligations.ConfigureWritesTheThreeBytes
  intro s hum meas cfg w1 w2 w3 rest hp ho hg
  have hw := writesControls_configure hum meas cfg
  apply exec_configure hp
  refine .trans (State.settle_controlWrite_ok hw 0 rfl rfl rfl ho) ?_
  refine .trans (State.settle_controlWrite_ok hw 1 rfl rfl rfl rfl) ?_
  refine .trans (State.settle_controlWrite_ok hw 2 rfl rfl rfl rfl) ?_
  exact State.settle_take_finish (by exact hp) hg rfl

/-- Settles O22: the writes before the first failing one are acknowledged. -/
theorem configureKeepsTheShadowOnFailure : Obligations.ConfigureKeepsTheShadowOnFailure := by
  unfold Obligations.ConfigureKeepsTheShadowOnFailure
  intro s hum meas cfg w1 w2 junk rest S hp hS hg
  subst hS
  have hw := writesControls_configure hum meas cfg
  refine ⟨fun ho => exec_configure hp ?_, fun ho => exec_configure hp ?_, fun ho => exec_configure hp ?_⟩
  · exact State.settle_controlWrite_fail hw 0 rfl rfl rfl ho hp hg rfl
  · refine .trans (State.settle_controlWrite_ok hw 0 rfl rfl rfl ho) ?_
    exact State.settle_controlWrite_fail hw 1 rfl rfl rfl rfl hp hg rfl
  · refine .trans (State.settle_controlWrite_ok hw 0 rfl rfl rfl ho) ?_
    refine .trans (State.settle_controlWrite_ok hw 1 rfl rfl rfl rfl) ?_
    exact State.settle_controlWrite_fail hw 2 rfl rfl rfl rfl hp hg rfl

/-! ## SETMODE -/

/-- Settles O23: one write, then the finish on either answer. -/
theorem setmodeOrsTheModeBits : Obligations.SetmodeOrsTheModeBits := by
  unfold Obligations.SetmodeOrsTheModeBits
  intro s mode success bytes rest meas hp ho hg hkeep hclear
  have hmeas : setmodeValue s.params s.regs.ctrlMeas mode = meas := by
    unfold setmodeValue
    split
    next h => exact (hclear h).symm
    next h => exact (hkeep (by simpa using h)).symm
  subst hmeas
  apply exec_idle hp
  refine .trans (State.settle_take_issue ho rfl) ?_
  cases success with
  | true => exact State.settle_take_finish (by exact hp) hg rfl
  | false => exact State.settle_take_finish (by exact hp) hg rfl

/-! ## INIT up to the calibration reads -/

/-- The identity read (40_configurator.md R121). -/
def identityTxn : Txn := .read Config.identityAddr 1

/-- INIT's run once the identity `id` is stored. -/
def identifiedRun (S : Regs) (id : Byte) : Run :=
  (Run.start (.legal .init) S).answered.stage { S with aovf := false, chipId := id }

theorem acceptedIdentity_iff (id : Byte) : Config.acceptedIdentity id = true ↔ id = 0x60#8 ∨ id = 0x58#8 := by
  simp [Config.acceptedIdentity]

/-- INIT when not ready begins with the identity read. -/
theorem exec_init {s t : State} {success : Bool} {bytes : List Byte} {rest : List Reply} (hp : s.phase = .idle)
    (hr : s.regs.ready = false) (ho : s.oracle = .answer success bytes :: rest) (answer : Option (List Byte))
    (ha : identityTxn.outcome success bytes = answer)
    (ht : ((s.transacted identityTxn answer rest).take
      (initIdentity (Run.start (.legal .init) s.regs).answered answer)).settle = t) : exec .init s = .next t := by
  have hb : begins s.params .init (Run.start (.legal .init) s.regs) =
      .issue identityTxn (Run.start (.legal .init) s.regs) := by
    show initBegin _ = _
    unfold initBegin
    rw [if_neg (by simp [hr])]
    rfl
  apply exec_idle hp
  rw [hb]
  exact .trans (State.settle_take_issue ho ha) ht

theorem initIdentity_some (S : Regs) (id : Byte) :
    initIdentity (Run.start (.legal .init) S).answered (some [id]) =
      if Config.acceptedIdentity id then initNext (identifiedRun S id)
      else .finish .identityMismatch (identifiedRun S id) := rfl

/-- Settles O16: what `initIdentity` does with a failed read, and with a byte that is no accepted identity. -/
theorem initIdentityFailures : Obligations.InitIdentityFailures := by
  unfold Obligations.InitIdentityFailures
  intro s success bytes id rest hp hr hg
  refine ⟨fun hfail ho => ?_, fun h60 h58 ho => ?_⟩
  · have ha : identityTxn.outcome success bytes = none := by
      rcases hfail with rfl | hlen
      · rfl
      · simp [identityTxn, Txn.outcome, hlen]
    apply exec_init hp hr ho none ha
    exact State.settle_take_finish (by exact hp) hg rfl
  · have hid : ¬Config.acceptedIdentity id = true := by
      rw [acceptedIdentity_iff]
      exact not_or.2 ⟨h60, h58⟩
    apply exec_init hp hr ho (some [id]) rfl
    rw [initIdentity_some, if_neg hid]
    exact State.settle_take_finish (by exact hp) hg rfl

/-- INIT with an accepted identity goes on to its control writes. -/
theorem exec_init_identified {s t : State} {id : Byte} {rest : List Reply} (hp : s.phase = .idle)
    (hr : s.regs.ready = false) (hid : id = 0x60#8 ∨ id = 0x58#8) (ho : s.oracle = .answer true [id] :: rest)
    (ht : ((s.transacted identityTxn (some [id]) rest).take (initNext (identifiedRun s.regs id))).settle = t) :
    exec .init s = .next t := by
  apply exec_init hp hr ho (some [id]) rfl
  rwa [initIdentity_some, if_pos ((acceptedIdentity_iff id).2 hid)]

/-- Settles O17: the writes before the first failing one are acknowledged. -/
theorem initStopsAtTheFirstFailedWrite : Obligations.InitStopsAtTheFirstFailedWrite := by
  unfold Obligations.InitStopsAtTheFirstFailedWrite
  intro s id w1 w2 junk rest hp hr hid hg
  have hw := writesControls_init
  refine ⟨fun ho => exec_init_identified hp hr hid ho ?_, fun ho => exec_init_identified hp hr hid ho ?_,
    fun ho => exec_init_identified hp hr hid ho ?_⟩
  · exact State.settle_controlWrite_fail hw 0 rfl rfl rfl rfl hp hg rfl
  · refine .trans (State.settle_controlWrite_ok hw 0 rfl rfl rfl rfl) ?_
    exact State.settle_controlWrite_fail hw 1 rfl rfl rfl rfl hp hg rfl
  · refine .trans (State.settle_controlWrite_ok hw 0 rfl rfl rfl rfl) ?_
    refine .trans (State.settle_controlWrite_ok hw 1 rfl rfl rfl rfl) ?_
    exact State.settle_controlWrite_fail hw 2 rfl rfl rfl rfl hp hg rfl

/-! ## INIT's calibration reads -/

/-- INIT's run once the sub-read of its index has been answered (40_configurator.md R123). -/
def Run.subRead (r : Run) (answer : Option (List Byte)) : Run :=
  { r with index := r.index + 1, buf := answer.elim r.buf (storeBytes r.buf (calOffset r.index)),
           got := r.got + answer.elim 0 List.length }

@[simp] theorem Run.subRead_got (r : Run) (answer : Option (List Byte)) :
    (r.subRead answer).got = r.got + answer.elim 0 List.length := rfl

/-- INIT goes on after a sub-read, whatever its answer. -/
theorem Run.resume_subRead {r : Run} (hc : r.command = .legal .init) (hi : 4 ≤ r.index) (txn : Txn)
    (answer : Option (List Byte)) : r.answered.resume txn answer = initNext (r.subRead answer) := by
  simp only [Run.resume, Run.answered_command, hc, initResume]
  rw [if_neg (by rw [Run.answered_index]; omega), if_neg (by rw [Run.answered_index]; omega)]
  cases answer <;> rfl

theorem State.settle_subRead {s : State} {r : Run} {txn : Txn} {success : Bool} {bytes : List Byte}
    {rest : List Reply} (k : Nat) (hc : r.command = .legal .init) (hi : r.index = 4 + k)
    (ht : initTxn r.staged (4 + k) = some txn) (ho : s.oracle = .answer success bytes :: rest) :
    (s.take (initNext r)).settle = ((s.transacted txn (txn.outcome success bytes) rest).take
      (initNext (r.subRead (txn.outcome success bytes)))).settle := by
  have hn : initNext r = .issue txn r := by
    unfold initNext
    rw [hi, ht]
  rw [hn, State.settle_take_issue ho rfl, Run.resume_subRead hc (by omega)]

/-- What a sub-read adds to the count of bytes obtained: its `n` bytes, or nothing. -/
theorem Txn.outcome_read_length (addr : Byte) (n : Nat) (success : Bool) (bytes : List Byte) :
    ((Txn.read addr n).outcome success bytes).elim 0 List.length =
      if success = true ∧ bytes.length = n then n else 0 := by
  simp only [Txn.outcome, Bool.and_eq_true, beq_iff_eq]
  split
  next h => exact h.2
  next => rfl

/-- INIT's run after its four sub-reads. -/
def subReadsRun (S : Regs) (id : Byte) (a1 a2 a3 a4 : Option (List Byte)) : Run :=
  ((((identifiedRun S id).answered.answered.answered.subRead a1).subRead a2).subRead a3).subRead a4

/-- The count of bytes obtained is that of the four sub-reads. -/
theorem subReadsRun_got (S : Regs) (id : Byte) (a1 a2 a3 a4 : Option (List Byte)) :
    (subReadsRun S id a1 a2 a3 a4).got =
      a1.elim 0 List.length + a2.elim 0 List.length + a3.elim 0 List.length + a4.elim 0 List.length := by
  simp only [subReadsRun, Run.subRead_got]
  exact congrArg (· + _ + _ + _) (Nat.zero_add _)

/-- The state after INIT's identity read and its three control writes, all acknowledged. -/
def State.initWritten (s : State) (rest : List Reply) : State :=
  { s with
    oracle := rest
    sensor := ((s.sensor.write 0xF2 s.regs.ctrlHum).write 0xF4 s.regs.ctrlMeas).write 0xF5 s.regs.config
    bus := .write 0xF5#8 s.regs.config :: .write 0xF4#8 s.regs.ctrlMeas :: .write 0xF2#8 s.regs.ctrlHum ::
      .read 0xD0#8 1 :: s.bus }

/-- The state after INIT's four sub-reads: a read leaves the sensor alone. -/
def State.subReadsTransacted (s : State) (rest : List Reply) : State :=
  { s with
    oracle := rest
    bus := .read 0xE1#8 7 :: .read 0xA1#8 1 :: .read 0x8E#8 18 :: .read 0x88#8 6 :: s.bus }

/-- After its four sub-reads INIT has no transaction left. -/
theorem initNext_subReadsRun (S : Regs) (id : Byte) (a1 a2 a3 a4 : Option (List Byte)) :
    initNext (subReadsRun S id a1 a2 a3 a4) = initEnd (subReadsRun S id a1 a2 a3 a4) := rfl

/-- INIT makes all four sub-reads whatever their answers, and then ends. -/
theorem State.settle_subReads {s : State} (S : Regs) (id : Byte) {c1 c2 c3 c4 : List Byte} {k1 k2 k3 k4 : Bool}
    {rest : List Reply}
    (ho : s.oracle = .answer k1 c1 :: .answer k2 c2 :: .answer k3 c3 :: .answer k4 c4 :: rest) :
    (s.take (initNext (identifiedRun S id).answered.answered.answered)).settle =
      ((s.subReadsTransacted rest).take (initEnd (subReadsRun S id
        ((Txn.read Config.calTempAddr 6).outcome k1 c1) ((Txn.read Config.calPresAddr 18).outcome k2 c2)
        ((Txn.read Config.calHum1Addr 1).outcome k3 c3) ((Txn.read Config.calHum2Addr 7).outcome k4 c4)))).settle := by
  rw [← initNext_subReadsRun]
  refine .trans (State.settle_subRead 0 rfl rfl rfl ho) ?_
  refine .trans (State.settle_subRead 1 rfl rfl rfl rfl) ?_
  refine .trans (State.settle_subRead 2 rfl rfl rfl rfl) ?_
  exact State.settle_subRead 3 rfl rfl rfl rfl

/-- INIT with every transaction before the sub-reads answered ok. -/
theorem exec_init_subReads {s t : State} {id : Byte} {w1 w2 w3 c1 c2 c3 c4 : List Byte} {k1 k2 k3 k4 : Bool}
    {rest : List Reply} (hp : s.phase = .idle) (hr : s.regs.ready = false) (hid : id = 0x60#8 ∨ id = 0x58#8)
    (ho : s.oracle = .answer true [id] :: .answer true w1 :: .answer true w2 :: .answer true w3 ::
      .answer k1 c1 :: .answer k2 c2 :: .answer k3 c3 :: .answer k4 c4 :: rest)
    (ht : (((s.initWritten rest).subReadsTransacted rest).take (initEnd (subReadsRun s.regs id
      ((Txn.read Config.calTempAddr 6).outcome k1 c1) ((Txn.read Config.calPresAddr 18).outcome k2 c2)
      ((Txn.read Config.calHum1Addr 1).outcome k3 c3) ((Txn.read Config.calHum2Addr 7).outcome k4 c4)))).settle = t) :
    exec .init s = .next t := by
  have hw := writesControls_init
  apply exec_init_identified hp hr hid ho
  refine .trans (State.settle_controlWrite_ok hw 0 rfl rfl rfl rfl) ?_
  refine .trans (State.settle_controlWrite_ok hw 1 rfl rfl rfl rfl) ?_
  refine .trans (State.settle_controlWrite_ok hw 2 rfl rfl rfl rfl) ?_
  exact .trans (State.settle_subReads s.regs id rfl) ht

/-- Settles O18: with one sub-read failed, fewer than 32 bytes have been obtained. -/
theorem initAttemptsAllFourSubReads : Obligations.InitAttemptsAllFourSubReads := by
  unfold Obligations.InitAttemptsAllFourSubReads
  intro s id w1 w2 w3 c1 c2 c3 c4 k1 k2 k3 k4 rest hp hr hid hfail ho hg
  apply exec_init_subReads hp hr hid ho
  unfold initEnd
  rw [if_neg]
  · exact State.settle_take_finish (by exact hp) hg rfl
  · intro hgot
    rw [subReadsRun_got] at hgot
    simp only [Txn.outcome_read_length] at hgot
    refine hfail ⟨?_, ?_, ?_, ?_⟩ <;>
    · by_contra hk
      rw [if_neg hk] at hgot
      split_ifs at hgot <;> omega

/-! ## INIT's table -/

/-- The buffer holds the bytes `l`, and nothing beyond them. -/
def BufHolds (buf : Vector (Option Byte) 32) (l : List Byte) : Prop := ∀ (i : Nat) (hi : i < 32), buf[i] = l[i]?

theorem bufHolds_empty : BufHolds (Vector.replicate 32 none) [] := fun i hi => by simp

/-- Bytes stored right behind those held extend them. -/
theorem BufHolds.storeBytes {buf : Vector (Option Byte) 32} {l : List Byte} (h : BufHolds buf l) {off : Nat}
    (hoff : l.length = off) (b : List Byte) : BufHolds (storeBytes buf off b) (l ++ b) := by
  intro i hi
  subst hoff
  simp only [Machine.storeBytes, Vector.getElem_ofFn, Fin.getElem_fin, h i hi]
  split
  next hle => rw [List.getElem?_append_right hle, List.getElem?_eq_none hle, Option.or_none]
  next hlt => rw [List.getElem?_append_left (by omega)]

/-- A buffer that holds 32 bytes replaces the whole table (40_configurator.md R124). -/
theorem BufHolds.loadCal_toList {buf : Vector (Option Byte) 32} {l : List Byte} (h : BufHolds buf l)
    (hl : l.length = 32) (cal : Vector Byte 32) : (loadCal cal buf).toList = l := by
  apply List.ext_getElem
  · rw [Vector.length_toList, hl]
  · intro i hi hi'
    simp [loadCal, h i (by omega), hi']

/-- Settles O15: with all four sub-reads answered ok, the buffer holds their 32 bytes in order. -/
theorem initLoadsTheTableAndGetsReady : Obligations.InitLoadsTheTableAndGetsReady := by
  unfold Obligations.InitLoadsTheTableAndGetsReady
  intro s id w1 w2 w3 c1 c2 c3 c4 rest hp hr hid h1 h2 h3 h4 ho hg
  have hok (addr : Byte) (n : Nat) {bytes : List Byte} (hn : bytes.length = n) :
      (Txn.read addr n).outcome true bytes = some bytes := by simp [Txn.outcome, hn]
  have hbuf : BufHolds (subReadsRun s.regs id (some c1) (some c2) (some c3) (some c4)).buf (c1 ++ c2 ++ c3 ++ c4) :=
    have hbuf1 := bufHolds_empty.storeBytes (off := 0) rfl c1
    have hbuf2 := hbuf1.storeBytes (off := 6) (by simp [h1]) c2
    have hbuf3 := hbuf2.storeBytes (off := 24) (by simp [h1, h2]) c3
    hbuf3.storeBytes (off := 25) (by simp [h1, h2, h3]) c4
  refine ⟨_, hbuf.loadCal_toList (by simp [h1, h2, h3, h4]) s.regs.cal, ?_⟩
  apply exec_init_subReads hp hr hid ho
  rw [hok _ _ h1, hok _ _ h2, hok _ _ h3, hok _ _ h4]
  unfold initEnd
  rw [if_pos]
  · exact State.settle_take_finish (by exact hp) hg rfl
  · rw [subReadsRun_got]
    simp only [Option.elim_some]
    omega

/-- Settles O19: INIT finishes with no transaction. -/
theorem initWhenReadyChangesNothing : Obligations.InitWhenReadyChangesNothing := by
  unfold Obligations.InitWhenReadyChangesNothing
  intro s hp hr hg
  have hb : begins s.params .init (Run.start (.legal .init) s.regs) =
      .finish .ok (Run.start (.legal .init) s.regs) := if_pos hr
  apply exec_idle hp
  rw [hb]
  exact State.settle_take_finish (by exact hp) hg rfl

/-! ## What the configurator leaves alone, on any outcome -/

/-- Accepting a command, idle or busy: it is enough to follow the moves of its sequence, since a busy block only sets
OVR. -/
theorem exec_outcome {s t : State} {i : Instr} (h : exec i s = .next t) (wait : Run → Txn → Prop)
    (done : Run → ErrorCode → Prop) (hb : (begins s.params i (Run.start (.legal i) s.regs)).Meets wait done)
    (hr : ∀ r txn answer, wait r txn → (r.answered.resume txn answer).Meets wait done) :
    (t.regs = s.regs ∨ ∃ r code, done r code ∧ t.regs = r.staged.finished code) ∧
      ∀ b : Nat, (∀ r a v, wait r (.write a v) → b ≠ a.toNat) → t.sensor.read b = s.sensor.read b := by
  rw [exec_eq_accept] at h
  injection h with h
  subst h
  by_cases hp : s.phase = .idle
  · have ha := State.accept_outcome wait done hp hb hr
    refine ⟨?_, ha.sensor⟩
    rcases ha.outcome with ⟨_, _, -, -, h⟩ | ⟨_, _, -, -, h⟩ | ⟨r, code, -, hd, h⟩
    · exact .inl h
    · exact .inl h
    · exact .inr ⟨r, code, hd, h⟩
  · rw [State.accept_busy hp]
    exact ⟨.inl rfl, fun _ _ => rfl⟩

theorem controlWritten_meets {next : Run → Move} {r : Run} {wait : Run → Txn → Prop} {done : Run → ErrorCode → Prop}
    (hnext : (next r).Meets wait done) (hfail : done r .transportWriteError) (answer : Option (List Byte)) :
    (controlWritten next r answer).Meets wait done := by
  cases answer with
  | none => exact hfail
  | some _ => exact hnext

/-- An address that is none of the three control registers' is not that of a control write. -/
theorem Regs.controlWrite_other {S : Regs} {k b : Nat} {a v : Byte} (h : S.controlWrite k = some (.write a v))
    (hhum : b ≠ Config.ctrlHumAddr.toNat) (hmeas : b ≠ Config.ctrlMeasAddr.toNat)
    (hcfg : b ≠ Config.configAddr.toNat) : b ≠ a.toNat := by
  rcases Regs.controlWrite_cases h with h | h | h <;> cases h
  · exact hhum
  · exact hmeas
  · exact hcfg

/-- CONFIGURE waits for control writes only, its staged copy complete from the beginning. -/
def ConfigureWaits (hum meas cfg : Byte) (S : Regs) (r : Run) (txn : Txn) : Prop :=
  r.command = .legal (.configure hum meas cfg) ∧ r.staged = (configureRun hum meas cfg S).staged ∧
    ∃ k, r.staged.controlWrite k = some txn

theorem configureNext_meets {hum meas cfg : Byte} {S : Regs} {r : Run}
    (hc : r.command = .legal (.configure hum meas cfg)) (hs : r.staged = (configureRun hum meas cfg S).staged) :
    (configureNext r).Meets (ConfigureWaits hum meas cfg S)
      (fun r _ => r.staged = (configureRun hum meas cfg S).staged) := by
  unfold configureNext
  split
  next txn ht => exact ⟨hc, hs, r.index, ht⟩
  next => exact hs

theorem ConfigureWaits.resume_meets {hum meas cfg : Byte} {S : Regs} {r : Run} {txn : Txn}
    (hw : ConfigureWaits hum meas cfg S r txn) (answer : Option (List Byte)) :
    (r.answered.resume txn answer).Meets (ConfigureWaits hum meas cfg S)
      (fun r _ => r.staged = (configureRun hum meas cfg S).staged) := by
  obtain ⟨hc, hs, -⟩ := hw
  simp only [Run.resume, Run.answered_command, hc]
  exact controlWritten_meets (r := r.answered) (configureNext_meets hc hs) hs answer

/-- CONFIGURE's part of O24. -/
theorem configure_frame {s t : State} {hum meas cfg : Byte} (h : exec (.configure hum meas cfg) s = .next t) :
    t.regs = { s.regs with ctrlHum := t.regs.ctrlHum, ctrlMeas := t.regs.ctrlMeas, config := t.regs.config,
                           err := t.regs.err, aovf := t.regs.aovf } ∧
      ∀ a : Nat, a ≠ Config.ctrlHumAddr.toNat → a ≠ Config.ctrlMeasAddr.toNat → a ≠ Config.configAddr.toNat →
        t.sensor.read a = s.sensor.read a := by
  obtain ⟨hregs, hsensor⟩ := exec_outcome h (ConfigureWaits hum meas cfg s.regs)
    (fun r _ => r.staged = (configureRun hum meas cfg s.regs).staged) (configureNext_meets rfl rfl)
    fun _ _ answer hw => hw.resume_meets answer
  refine ⟨?_, fun a hhum hmeas hcfg => hsensor a ?_⟩
  · rcases hregs with h | ⟨r, code, hd, h⟩
    · rw [h]
    · rw [h, hd]
      simp [configureRun, Regs.finished]
  · rintro r b v ⟨-, -, k, ht⟩
    exact Regs.controlWrite_other ht hhum hmeas hcfg

/-- SETMODE's staged copy, from the beginning. -/
def setmodeRegs (p : Config.Params) (mode : BitVec 2) (S : Regs) : Regs :=
  { S with ctrlMeas := setmodeValue p S.ctrlMeas mode, aovf := false }

/-- SETMODE waits for its one write. -/
def SetmodeWaits (p : Config.Params) (mode : BitVec 2) (S : Regs) (r : Run) (txn : Txn) : Prop :=
  r.command = .legal (.setmode mode) ∧ r.staged = setmodeRegs p mode S ∧ ∃ v, txn = .write Config.ctrlMeasAddr v

theorem SetmodeWaits.resume_meets {p : Config.Params} {mode : BitVec 2} {S : Regs} {r : Run} {txn : Txn}
    (hw : SetmodeWaits p mode S r txn) (answer : Option (List Byte)) :
    (r.answered.resume txn answer).Meets (SetmodeWaits p mode S) (fun r _ => r.staged = setmodeRegs p mode S) := by
  obtain ⟨hc, hs, -⟩ := hw
  simp only [Run.resume, Run.answered_command, hc]
  cases answer with
  | none => exact hs
  | some _ => exact hs

/-- SETMODE's part of O24. -/
theorem setmode_frame {s t : State} {mode : BitVec 2} (h : exec (.setmode mode) s = .next t) :
    t.regs = { s.regs with ctrlMeas := t.regs.ctrlMeas, err := t.regs.err, aovf := t.regs.aovf } ∧
      ∀ a : Nat, a ≠ Config.ctrlMeasAddr.toNat → t.sensor.read a = s.sensor.read a := by
  obtain ⟨hregs, hsensor⟩ := exec_outcome h (SetmodeWaits s.params mode s.regs)
    (fun r _ => r.staged = setmodeRegs s.params mode s.regs) ⟨rfl, rfl, _, rfl⟩
    fun _ _ answer hw => hw.resume_meets answer
  refine ⟨?_, fun a hmeas => hsensor a ?_⟩
  · rcases hregs with h | ⟨r, code, hd, h⟩
    · rw [h]
    · rw [h, hd]
      simp [setmodeRegs, Regs.finished]
  · rintro r b v ⟨-, -, w, hw⟩
    cases hw
    exact hmeas

/-- Settles O24. -/
theorem configuratorFrame : Obligations.ConfiguratorFrame := by
  unfold Obligations.ConfiguratorFrame
  intro s t hum meas cfg mode
  exact ⟨configure_frame, setmode_frame⟩

/-- INIT waits only when it began not ready, with nothing staged but the identity. -/
def InitWaits (S : Regs) (r : Run) (txn : Txn) : Prop :=
  r.command = .legal .init ∧ S.ready = false ∧ (∃ id, r.staged = { S with aovf := false, chipId := id }) ∧
    ∃ k, initTxn r.staged k = some txn

/-- INIT's end: the identity, READY and the table may be new, but none of them from a ready state, and no table without
READY. -/
def InitDone (S : Regs) (r : Run) : Prop :=
  ∃ id ready cal, r.staged = { S with aovf := false, chipId := id, ready := ready, cal := cal } ∧
    (S.ready = true → ready = true ∧ cal = S.cal ∧ id = S.chipId) ∧ (ready = false → cal = S.cal)

theorem initTxn_write {S : Regs} {k : Nat} {a v : Byte} (h : initTxn S k = some (.write a v)) :
    ∃ j, S.controlWrite j = some (.write a v) := by
  unfold initTxn at h
  split at h
  case h_2 => exact ⟨0, h⟩
  case h_3 => exact ⟨1, h⟩
  case h_4 => exact ⟨2, h⟩
  all_goals cases h

section
variable {S : Regs} {r : Run} (hready : S.ready = false) {id : Byte}
include hready

/-- A finish that leaves READY and the table as they were. -/
theorem initDone_of_unchanged (hs : r.staged = { S with aovf := false, chipId := id }) : InitDone S r :=
  ⟨id, S.ready, S.cal, hs, fun h => absurd h (by simp [hready]), fun _ => rfl⟩

theorem initNext_meets (hc : r.command = .legal .init) (hs : r.staged = { S with aovf := false, chipId := id }) :
    (initNext r).Meets (InitWaits S) (fun r _ => InitDone S r) := by
  unfold initNext
  split
  next txn ht => exact ⟨hc, hready, ⟨id, hs⟩, r.index, ht⟩
  next =>
    unfold initEnd
    split
    · exact ⟨id, true, loadCal r.staged.cal r.buf, by rw [Run.stage_staged, hs],
        fun h => absurd h (by simp [hready]), nofun⟩
    · exact initDone_of_unchanged hready hs

theorem initResume_meets (hc : r.command = .legal .init) (hs : r.staged = { S with aovf := false, chipId := id })
    (answer : Option (List Byte)) : (initResume r answer).Meets (InitWaits S) (fun r _ => InitDone S r) := by
  unfold initResume
  split
  · unfold initIdentity
    split
    next b _ =>
      have hb : (r.stage { r.staged with chipId := b }).staged = { S with aovf := false, chipId := b } := by
        rw [Run.stage_staged, hs]
      dsimp only
      split
      · exact initNext_meets hready hc hb
      · exact initDone_of_unchanged hready hb
    · exact initDone_of_unchanged hready hs
    · exact initDone_of_unchanged hready hs
  · split
    · exact controlWritten_meets (initNext_meets hready hc hs) (initDone_of_unchanged hready hs) answer
    · unfold initSubRead
      split
      · exact initNext_meets hready hc hs
      · exact initNext_meets hready hc hs

end

theorem InitWaits.resume_meets {S : Regs} {r : Run} {txn : Txn} (hw : InitWaits S r txn)
    (answer : Option (List Byte)) :
    (r.answered.resume txn answer).Meets (InitWaits S) (fun r _ => InitDone S r) := by
  obtain ⟨hc, hready, ⟨id, hs⟩, -⟩ := hw
  simp only [Run.resume, Run.answered_command, hc]
  exact initResume_meets (r := r.answered) hready hc hs answer

theorem initBegin_meets (S : Regs) :
    (initBegin (Run.start (.legal .init) S)).Meets (InitWaits S) (fun r _ => InitDone S r) := by
  unfold initBegin
  split
  next hready =>
    exact ⟨S.chipId, S.ready, S.cal, rfl, fun h => ⟨h, rfl, rfl⟩, fun _ => rfl⟩
  next hready => exact initNext_meets (id := S.chipId) (by simpa using hready) rfl rfl

/-- Settles O20, over everything INIT's sequence can do. -/
theorem initFrame : Obligations.InitFrame := by
  unfold Obligations.InitFrame
  intro s t h
  obtain ⟨hregs, hsensor⟩ := exec_outcome h (InitWaits s.regs) (fun r _ => InitDone s.regs r) (initBegin_meets s.regs)
    fun _ _ answer hw => hw.resume_meets answer
  have hother (a : Nat) (hhum : a ≠ Config.ctrlHumAddr.toNat) (hmeas : a ≠ Config.ctrlMeasAddr.toNat)
      (hcfg : a ≠ Config.configAddr.toNat) : t.sensor.read a = s.sensor.read a := by
    refine hsensor a ?_
    rintro r b v ⟨-, -, -, k, ht⟩
    obtain ⟨j, hj⟩ := initTxn_write ht
    exact Regs.controlWrite_other hj hhum hmeas hcfg
  rcases hregs with h | ⟨r, code, ⟨id, ready, cal, hs, hkeep, hcal⟩, h⟩
  · rw [h]
    exact ⟨rfl, fun hready => ⟨hready, rfl, rfl⟩, fun _ => rfl, hother⟩
  · rw [h, hs]
    exact ⟨by simp [Regs.finished], hkeep, hcal, hother⟩

end Sys2Proof.Machine
end

section
/-! SUPPORT. Proofs about the sampler (41_sampler.md): the calibration coefficients by bytes, the acquisition run along
its transactions, with which READRAW and the orchestration commands begin, and what those commands leave alone. -/

namespace Sys2Proof.Machine

/-! ## The coefficients (41_sampler.md R152, R153) -/

/-- A two's-complement number is its bits read with a sign. -/
theorem toInt_eq_signedOf {w : Nat} (hw : 0 < w) (x : BitVec w) : x.toInt = signedOf w x.toNat := by
  obtain ⟨k, rfl⟩ : ∃ k, w = k + 1 := ⟨w - 1, by omega⟩
  have hsign : 2 * x.toNat < 2 ^ (k + 1) ↔ (x.toNat : Int) < 2 ^ k := by
    rw [pow_succ]
    norm_cast
    omega
  simp only [BitVec.toInt_eq_toNat_cond, signedOf, hsign, Nat.add_sub_cancel]
  norm_cast

theorem le16_toInt (lo hi : Byte) : (le16 lo hi).toInt = signedOf 16 (lo.toNat + 256 * hi.toNat) := by
  rw [toInt_eq_signedOf (by decide), le16_toNat]
  norm_cast

/-- The nibble of byte 29 that H4 takes is the lower one. -/
theorem sext12_low (hi lo : Byte) :
    sext12 hi (lo.extractLsb' 0 4) = signedOf 8 hi.toNat * 16 + (lo.toNat : Int) % 16 := by
  rw [sext12, toInt_eq_signedOf (by decide), BitVec.extractLsb'_toNat, Nat.shiftRight_zero]
  norm_cast

/-- The nibble of byte 29 that H5 takes is the upper one. -/
theorem sext12_high (hi lo : Byte) :
    sext12 hi (lo.extractLsb' 4 4) = signedOf 8 hi.toNat * 16 + (lo.toNat : Int) / 16 := by
  have hlo := lo.isLt
  rw [sext12, toInt_eq_signedOf (by decide), BitVec.extractLsb'_toNat, Nat.shiftRight_eq_div_pow,
    Nat.mod_eq_of_lt (by omega)]
  norm_cast

theorem byte_toInt_range (x : Byte) : -128 ≤ x.toInt ∧ x.toInt ≤ 127 := by
  have hl := x.le_toInt
  have hu := x.toInt_lt
  omega

theorem byte_toNat_range (x : Byte) : 0 ≤ (x.toNat : Int) ∧ (x.toNat : Int) ≤ 255 :=
  ⟨Int.natCast_nonneg _, Int.ofNat_le.2 (Nat.le_of_lt_succ x.isLt)⟩

theorem le16_toNat_range (lo hi : Byte) : 0 ≤ ((le16 lo hi).toNat : Int) ∧ ((le16 lo hi).toNat : Int) ≤ 65535 :=
  ⟨Int.natCast_nonneg _, Int.ofNat_le.2 (Nat.le_of_lt_succ (le16_toNat_lt lo hi))⟩

/-- Settles O31: every coefficient is a pair of bytes, a byte, or a byte with a nibble. -/
theorem coefficientRanges : Obligations.CoefficientRanges := by
  unfold Obligations.CoefficientRanges
  intro cal c b hc hb
  subst hc
  have hbyte (i : Nat) (hi : i < 32) : (cal[i].toNat : Int) = b i := (hb ⟨i, hi⟩).symm
  have hunsigned (i j : Nat) (hi : i < 32) (hj : j < 32) : ((le16 cal[i] cal[j]).toNat : Int) = b i + 256 * b j := by
    rw [le16_toNat, ← hbyte i hi, ← hbyte j hj]
    norm_cast
  have hsigned (i j : Nat) (hi : i < 32) (hj : j < 32) :
      (le16 cal[i] cal[j]).toInt = signedOf 16 (b i + 256 * b j) := by
    rw [le16_toInt, hbyte i, hbyte j]
  refine ⟨hunsigned 0 1 _ _, hsigned 2 3 _ _, hsigned 4 5 _ _, hunsigned 6 7 _ _, hsigned 8 9 _ _, hsigned 10 11 _ _,
    hsigned 12 13 _ _, hsigned 14 15 _ _, hsigned 16 17 _ _, hsigned 18 19 _ _, hsigned 20 21 _ _, hsigned 22 23 _ _,
    hbyte 24 _, hsigned 25 26 _ _, hbyte 27 _, ?_, ?_, ?_, ?_, ?_, ?_, ?_, byte_toInt_range _⟩
  · rw [← hbyte 28, ← hbyte 29]
    exact sext12_low _ _
  · rw [← hbyte 30, ← hbyte 29]
    exact sext12_high _ _
  · rw [← hbyte 31]
    exact toInt_eq_signedOf (by decide) _
  all_goals simp only [List.forall_mem_cons, List.not_mem_nil, false_implies, implies_true, and_true]
  · exact ⟨le16_toNat_range _ _, le16_toNat_range _ _⟩
  · have hrange (lo hi : Byte) : -32768 ≤ (le16 lo hi).toInt ∧ (le16 lo hi).toInt ≤ 32767 :=
      (le16_toInt_range lo hi).imp_right Int.le_of_lt_add_one
    exact ⟨hrange _ _, hrange _ _, hrange _ _, hrange _ _, hrange _ _, hrange _ _, hrange _ _, hrange _ _, hrange _ _,
      hrange _ _, hrange _ _⟩
  · exact ⟨byte_toNat_range _, byte_toNat_range _⟩
  · exact ⟨(sext12_range _ _).imp_right Int.le_of_lt_add_one, (sext12_range _ _).imp_right Int.le_of_lt_add_one⟩

/-! ## The sampling invariants -/

/-- Settles O52, from the invariant of every reachable state. -/
theorem samplingInvariantsHold : Obligations.SamplingInvariantsHold := by
  unfold Obligations.SamplingInvariantsHold
  intro s h
  have hs := h.inv.sampled
  exact ⟨hs.raw, hs.tfine, fun hv => hv.elim (fun hp => (hs.pres hp).1) fun hh => (hs.hum hh).1,
    fun hp => (hs.pres hp).2, fun hh => (hs.hum hh).2⟩

/-! ## The raw values (20_memory.md R64) -/

theorem raw20_eq_ofNat (b0 b1 b2 : Byte) :
    raw20 b0 b1 b2 = .ofNat 20 (b0.toNat * 2 ^ 12 + b1.toNat * 2 ^ 4 + b2.toNat / 2 ^ 4) := by
  have h0 := b0.isLt
  have h1 := b1.isLt
  have h2 := b2.isLt
  apply BitVec.eq_of_toNat_eq
  rw [raw20, toNat_append_eq_add, toNat_append_eq_add, BitVec.extractLsb'_toNat, Nat.shiftRight_eq_div_pow,
    BitVec.toNat_ofNat]
  omega

theorem raw16_eq_ofNat (b0 b1 : Byte) : raw16 b0 b1 = .ofNat 16 (b0.toNat * 2 ^ 8 + b1.toNat) := by
  rw [raw16, ← toNat_append_eq_add, BitVec.ofNat_toNat, BitVec.setWidth_eq]

/-! ## The beginning of an acquisition (41_sampler.md R160, R161) -/

/-- In forced mode SETMODE's value is the shadow's own ctrl_meas, under either parameter value. -/
theorem setmodeValue_forced (p : Config.Params) {x : Byte} (hx : x.extractLsb' 0 2 = 1#2) :
    setmodeValue p x 1#2 = x := by
  have hkeep : ∀ x : Byte, x.extractLsb' 0 2 = 1#2 → x ||| (1#2).zeroExtend 8 = x := by decide
  have hclear : ∀ x : Byte, x.extractLsb' 0 2 = 1#2 → (x &&& 0xFC#8) ||| (1#2).zeroExtend 8 = x := by decide
  unfold setmodeValue
  split
  · exact hclear x hx
  · exact hkeep x hx

/-- The staged copy of an acquisition until its sample is taken: the five flags are 0, and AOVF too, since the
acceptance. -/
def Regs.cleared (S : Regs) : Regs := { S with aovf := false }.clearSample

/-- The run of an acquiring command before its first transaction. -/
def acquireRun (i : Instr) (S : Regs) : Run := (Run.start (.legal i) S).stage S.cleared

/-- `acquire()` up to its first transaction: with READY 0 it ends, in forced mode it re-arms with the shadow's own
ctrl_meas, else it reads the burst. -/
theorem acquireBegin_eq (p : Config.Params) (r : Run) : acquireBegin p r =
    if r.staged.ready = true then
      if r.staged.ctrlMeas.extractLsb' 0 2 = 1#2 then
        .issue (.write Config.ctrlMeasAddr r.staged.ctrlMeas) (r.stage r.staged.clearSample)
      else .issue burstTxn (r.stage r.staged.clearSample)
    else .finish .notInitialized (r.stage r.staged.clearSample) := by
  have hforced : r.staged.clearSample.forced = true ↔ r.staged.ctrlMeas.extractLsb' 0 2 = 1#2 := beq_iff_eq
  unfold acquireBegin
  dsimp only
  by_cases hf : r.staged.ctrlMeas.extractLsb' 0 2 = 1#2
  · rw [setmodeValue_forced (x := r.staged.clearSample.ctrlMeas) p hf, if_pos (hforced.2 hf), if_pos hf]
    rfl
  · rw [if_neg (mt hforced.1 hf), if_neg hf]
    rfl

section
variable {S : Regs} (p : Config.Params) (i : Instr)

theorem acquireBegin_notReady (hr : S.ready = false) :
    acquireBegin p (Run.start (.legal i) S) = .finish .notInitialized (acquireRun i S) :=
  (acquireBegin_eq ..).trans (if_neg (ne_true_of_eq_false hr))

theorem acquireBegin_ready (hr : S.ready = true) : acquireBegin p (Run.start (.legal i) S) =
    if S.ctrlMeas.extractLsb' 0 2 = 1#2 then .issue (.write Config.ctrlMeasAddr S.ctrlMeas) (acquireRun i S)
    else .issue burstTxn (acquireRun i S) :=
  (acquireBegin_eq ..).trans (if_pos hr)

end

/-! ## The commands that acquire -/

/-- Command `i` begins with `acquire()` and goes on with `after` once its sample is taken (43_orchestration.md R240). -/
structure Acquires (i : Instr) (after : Run → Move) : Prop where
  begins : ∀ p : Config.Params, begins p i = acquireBegin p
  resumes : ∀ (r : Run) (txn : Txn) (answer : Option (List Byte)), r.command = .legal i →
    r.resume txn answer = acquireResume after txn r answer

theorem acquires_readraw : Acquires .readraw readrawAfter where
  begins _ := rfl
  resumes r txn answer hc := by simp only [Run.resume, hc]

theorem acquires_readt (tu : TempUnit) : Acquires (.readt tu) (readtAfter tu) where
  begins _ := rfl
  resumes r txn answer hc := by simp only [Run.resume, hc]

theorem acquires_readp (pu : BitVec 4) : Acquires (.readp pu) (readpAfter pu) where
  begins _ := rfl
  resumes r txn answer hc := by simp only [Run.resume, hc]

theorem acquires_readh : Acquires .readh readhAfter where
  begins _ := rfl
  resumes r txn answer hc := by simp only [Run.resume, hc]

theorem acquires_readall (tu : TempUnit) (pu : BitVec 4) : Acquires (.readall tu pu) (readallAfter tu pu) where
  begins _ := rfl
  resumes r txn answer hc := by simp only [Run.resume, hc]

theorem exists_acquires {i : Instr} (h : (Command.legal i).acquires = true) : ∃ after, Acquires i after := by
  cases i with
  | readraw => exact ⟨_, acquires_readraw⟩
  | readt tu => exact ⟨_, acquires_readt tu⟩
  | readp pu => exact ⟨_, acquires_readp pu⟩
  | readh => exact ⟨_, acquires_readh⟩
  | readall tu pu => exact ⟨_, acquires_readall tu pu⟩
  | _ => cases h

/-! ## An acquisition along its transactions -/

/-- The run of an acquiring command once its burst has been answered: the re-arm write, in forced mode, counts too. -/
def burstRun (i : Instr) (S : Regs) : Run :=
  { acquireRun i S with index := if S.ctrlMeas.extractLsb' 0 2 = 1#2 then 2 else 1 }

theorem burstAnswered_fail (after : Run → Move) (r : Run) {success : Bool} {bytes : List Byte}
    (h : success = false ∨ bytes.length ≠ 8) :
    burstAnswered after r (burstTxn.outcome success bytes) = .finish .transportReadError r := by
  have hfail : burstTxn.outcome success bytes = none := by
    rcases h with rfl | hlen
    · rfl
    · simp [burstTxn, Txn.outcome, hlen]
  rw [hfail]
  rfl

section
variable {i : Instr} {after : Run → Move} (h : Acquires i after) {s t : State} {success : Bool} {bytes w : List Byte}
  {rest : List Reply}
include h

/-- The burst is answered. -/
theorem State.settle_burst {r : Run} (hc : r.command = .legal i) (ho : s.oracle = .answer success bytes :: rest) :
    (s.take (.issue burstTxn r)).settle =
      ((s.transacted burstTxn (burstTxn.outcome success bytes) rest).take
        (burstAnswered after r.answered (burstTxn.outcome success bytes))).settle := by
  rw [State.settle_take_issue ho rfl, h.resumes r.answered _ _ hc]
  rfl

/-- The re-arm write is answered. -/
theorem State.settle_rearm {r : Run} {v : Byte} (hc : r.command = .legal i)
    (ho : s.oracle = .answer success bytes :: rest) {answer : Option (List Byte)}
    (ha : (if success then some [] else none) = answer) :
    (s.take (.issue (.write Config.ctrlMeasAddr v) r)).settle =
      ((s.transacted (.write Config.ctrlMeasAddr v) answer rest).take
        (controlWritten (.issue burstTxn) r.answered answer)).settle := by
  rw [State.settle_take_issue (txn := .write Config.ctrlMeasAddr v) ho ha, h.resumes r.answered _ _ hc]
  rfl

/-- An acquiring command on a ready block, up to its burst's answer. -/
theorem exec_burst (hp : s.phase = .idle) (hr : s.regs.ready = true)
    (ho : s.oracle = if s.regs.ctrlMeas.extractLsb' 0 2 = 1#2 then
        .answer true w :: .answer success bytes :: rest
      else .answer success bytes :: rest)
    (ht : ((afterBurst s s.regs rest).take
      (burstAnswered after (burstRun i s.regs) (burstTxn.outcome success bytes))).settle = t) :
    exec i s = .next t := by
  apply exec_idle hp
  rw [h.begins, acquireBegin_ready _ _ hr]
  rw [afterBurst, burstRun] at ht
  by_cases hf : s.regs.ctrlMeas.extractLsb' 0 2 = 1#2
  · rw [if_pos hf] at ho ⊢
    simp only [if_pos hf] at ht
    refine .trans (State.settle_rearm h rfl ho rfl) ?_
    exact .trans (State.settle_burst h rfl rfl) ht
  · rw [if_neg hf] at ho ⊢
    simp only [if_neg hf] at ht
    exact .trans (State.settle_burst h rfl ho) ht

/-- An acquiring command whose acquisition succeeds goes on from the sample taken (41_sampler.md R162, R163). -/
theorem exec_acquired {b0 b1 b2 b3 b4 b5 b6 b7 : Byte} (hb : BurstAnswered s w b0 b1 b2 b3 b4 b5 b6 b7 rest)
    (ht : ((afterBurst s s.regs rest).take
      (after ((burstRun i s.regs).stage (acquired s.regs b0 b1 b2 b3 b4 b5 b6 b7)))).settle = t) :
    exec i s = .next t := by
  obtain ⟨hp, hr, -, ho⟩ := hb
  have hsample : s.regs.cleared.takeSample b0 b1 b2 b3 b4 b5 b6 b7 = acquired s.regs b0 b1 b2 b3 b4 b5 b6 b7 := by
    simp only [Regs.takeSample, acquired, raw20_eq_ofNat, raw16_eq_ofNat]
    rfl
  rw [← hsample] at ht
  exact exec_burst h hp hr ho ht

end

/-- Settles O25: READRAW finishes once its sample is taken. -/
theorem readrawTakesASample : Obligations.ReadrawTakesASample := by
  unfold Obligations.ReadrawTakesASample
  intro s w b0 b1 b2 b3 b4 b5 b6 b7 rest hb
  obtain ⟨hp, -, hg, -⟩ := id hb
  apply exec_acquired acquires_readraw hb
  exact State.settle_take_finish (by exact hp) hg rfl

/-- Settles O26: the acquisition finishes before any sample is taken. -/
theorem failedAcquisitionClearsEveryFlag : Obligations.FailedAcquisitionClearsEveryFlag := by
  unfold Obligations.FailedAcquisitionClearsEveryFlag
  intro s i success w bytes junk rest S hi hp hS
  obtain ⟨after, h⟩ := exists_acquires hi
  subst hS
  refine ⟨fun hr hg => ?_, fun hr hf ho hg => ?_, fun hr hf hfail ho hg => ?_, fun hr hf hfail ho hg => ?_⟩
  · apply exec_idle hp
    rw [h.begins, acquireBegin_notReady _ _ hr]
    exact State.settle_take_finish (by exact hp) hg rfl
  · apply exec_idle hp
    rw [h.begins, acquireBegin_ready _ _ hr, if_pos hf]
    refine .trans (State.settle_rearm h rfl ho rfl) ?_
    exact State.settle_take_finish (by exact hp) hg rfl
  · apply exec_burst h (w := w) hp hr (ho.trans (if_neg hf).symm)
    rw [burstAnswered_fail _ _ hfail]
    exact State.settle_take_finish (by exact hp) hg rfl
  · apply exec_burst h hp hr (ho.trans (if_pos hf).symm)
    rw [burstAnswered_fail _ _ hfail]
    exact State.settle_take_finish (by exact hp) hg rfl

/-! ## What the acquiring commands leave alone, on any outcome -/

/-- The commands that compute no pressure (41_sampler.md R165, 43_orchestration.md R244, R248). -/
abbrev LeavesPressure (i : Instr) : Prop := i = .readraw ∨ i = .readh ∨ ∃ tu, i = .readt tu

/-- The commands that compute no humidity (41_sampler.md R165, 43_orchestration.md R244, R246). -/
abbrev LeavesHumidity (i : Instr) : Prop := i = .readraw ∨ (∃ tu, i = .readt tu) ∨ ∃ pu, i = .readp pu

/-- The commands that are given no temperature unit (41_sampler.md R165, 43_orchestration.md R246, R248). -/
abbrev LeavesTempUnit (i : Instr) : Prop := i = .readraw ∨ i = .readh ∨ ∃ pu, i = .readp pu

/-- The registers `T` hold what the acquiring command `i` leaves of `S`. -/
structure AcquireKeeps (i : Instr) (S T : Regs) : Prop where
  ready : T.ready = S.ready
  chipId : T.chipId = S.chipId
  cal : T.cal = S.cal
  ctrlHum : T.ctrlHum = S.ctrlHum
  ctrlMeas : T.ctrlMeas = S.ctrlMeas
  config : T.config = S.config
  temp : i = .readraw → T.tFine = S.tFine ∧ T.tOut = S.tOut ∧ T.aovfAny = S.aovfAny
  pres : LeavesPressure i → T.pOut = S.pOut ∧ T.punit = S.punit
  hum : LeavesHumidity i → T.hOut = S.hOut
  tunit : LeavesTempUnit i → T.tunit = S.tunit

section
variable {i : Instr} {S T : Regs}

theorem AcquireKeeps.refl (i : Instr) (S : Regs) : AcquireKeeps i S S :=
  ⟨rfl, rfl, rfl, rfl, rfl, rfl, fun _ => ⟨rfl, rfl, rfl⟩, fun _ => ⟨rfl, rfl⟩, fun _ => rfl, fun _ => rfl⟩

theorem acquireKeeps_cleared (i : Instr) (S : Regs) : AcquireKeeps i S S.cleared :=
  ⟨rfl, rfl, rfl, rfl, rfl, rfl, fun _ => ⟨rfl, rfl, rfl⟩, fun _ => ⟨rfl, rfl⟩, fun _ => rfl, fun _ => rfl⟩

theorem AcquireKeeps.takeSample (h : AcquireKeeps i S T) (b0 b1 b2 b3 b4 b5 b6 b7 : Byte) :
    AcquireKeeps i S (T.takeSample b0 b1 b2 b3 b4 b5 b6 b7) :=
  ⟨h.ready, h.chipId, h.cal, h.ctrlHum, h.ctrlMeas, h.config, h.temp, h.pres, h.hum, h.tunit⟩

theorem AcquireKeeps.tempStep (h : AcquireKeeps i S T) {tu : Option TempUnit} (hraw : i ≠ .readraw)
    (htu : LeavesTempUnit i → tu = none) : AcquireKeeps i S (tempStep tu T) :=
  ⟨h.ready, h.chipId, h.cal, h.ctrlHum, h.ctrlMeas, h.config, fun hi => absurd hi hraw, h.pres, h.hum,
    fun hi => by rw [tempStep_tunit, htu hi]; exact h.tunit hi⟩

theorem AcquireKeeps.presStep (h : AcquireKeeps i S T) (pu : BitVec 4) (hpres : ¬LeavesPressure i) :
    AcquireKeeps i S (presStep pu T).regs := by
  rcases presStep_regs_cases pu T with ⟨ovf, -, hP⟩ | ⟨p, -, hP⟩ <;>
  · rw [hP]
    exact ⟨h.ready, h.chipId, h.cal, h.ctrlHum, h.ctrlMeas, h.config, h.temp, fun hi => absurd hi hpres, h.hum,
      h.tunit⟩

theorem AcquireKeeps.humStep (h : AcquireKeeps i S T) (hhum : ¬LeavesHumidity i) : AcquireKeeps i S (humStep T) :=
  ⟨h.ready, h.chipId, h.cal, h.ctrlHum, h.ctrlMeas, h.config, h.temp, h.pres, fun hi => absurd hi hhum, h.tunit⟩

/-- The commit joins AOVF to AOVF_ANY (60_exceptions.md R262): READRAW has no overflow to join. -/
theorem AcquireKeeps.finished (h : AcquireKeeps i S T) (code : ErrorCode) (haovf : i = .readraw → T.aovf = false) :
    AcquireKeeps i S (T.finished code) := by
  refine ⟨h.ready, h.chipId, h.cal, h.ctrlHum, h.ctrlMeas, h.config, fun hi => ?_, h.pres, h.hum, h.tunit⟩
  obtain ⟨htFine, htOut, hany⟩ := h.temp hi
  exact ⟨htFine, htOut, by rw [Regs.finished_aovfAny, haovf hi, Bool.or_false, hany]⟩

end

/-- An acquiring command waits for its re-arm write or its burst, with nothing computed. -/
def AcquireWaits (i : Instr) (S : Regs) (r : Run) (txn : Txn) : Prop :=
  r.command = .legal i ∧ r.staged = S.cleared ∧ (txn = burstTxn ∨ txn = .write Config.ctrlMeasAddr S.ctrlMeas)

/-- An acquiring command finishes with registers whose commit keeps what it does not compute. -/
def AcquireDone (i : Instr) (S : Regs) (r : Run) (code : ErrorCode) : Prop :=
  AcquireKeeps i S (r.staged.finished code)

/-- A failed acquisition computes nothing. -/
theorem acquireDone_of_cleared {i : Instr} {S : Regs} {r : Run} (hs : r.staged = S.cleared) (code : ErrorCode) :
    AcquireDone i S r code := by
  unfold AcquireDone
  rw [hs]
  exact (acquireKeeps_cleared i S).finished code fun _ => rfl

/-- Each acquiring command ends with the steps of 43_orchestration.md R242 that it is made of, run on its sample. -/
theorem exists_acquires_meets {i : Instr} (hi : (Command.legal i).acquires = true) (S : Regs) :
    ∃ after, Acquires i after ∧ ∀ (r : Run) (b0 b1 b2 b3 b4 b5 b6 b7 : Byte),
      (after (r.stage (S.cleared.takeSample b0 b1 b2 b3 b4 b5 b6 b7))).Meets (AcquireWaits i S) (AcquireDone i S) := by
  have hsample := (acquireKeeps_cleared i S).takeSample
  cases i with
  | readraw => exact ⟨_, acquires_readraw, fun _ _ _ _ _ _ _ _ _ => (hsample ..).finished _ fun _ => rfl⟩
  | readt tu =>
    refine ⟨_, acquires_readt tu, fun _ _ _ _ _ _ _ _ _ => ?_⟩
    exact ((hsample ..).tempStep nofun (by simp)).finished _ nofun
  | readp pu =>
    refine ⟨_, acquires_readp pu, fun _ _ _ _ _ _ _ _ _ => ?_⟩
    exact (((hsample ..).tempStep nofun fun _ => rfl).presStep pu (by simp)).finished _ nofun
  | readh =>
    refine ⟨_, acquires_readh, fun _ _ _ _ _ _ _ _ _ => ?_⟩
    exact (((hsample ..).tempStep nofun fun _ => rfl).humStep (by simp)).finished _ nofun
  | readall tu pu =>
    refine ⟨_, acquires_readall tu pu, fun _ _ _ _ _ _ _ _ _ => ?_⟩
    exact ((((hsample ..).tempStep nofun (by simp)).presStep pu (by simp)).humStep (by simp)).finished _ nofun
  | _ => cases hi

theorem acquireBegin_meets (p : Config.Params) (i : Instr) (S : Regs) :
    (acquireBegin p (Run.start (.legal i) S)).Meets (AcquireWaits i S) (AcquireDone i S) := by
  cases hr : S.ready with
  | false =>
    rw [acquireBegin_notReady p i hr]
    exact acquireDone_of_cleared rfl _
  | true =>
    rw [acquireBegin_ready p i hr]
    split
    · exact ⟨rfl, rfl, .inr rfl⟩
    · exact ⟨rfl, rfl, .inl rfl⟩

theorem AcquireWaits.resume_meets {i : Instr} {after : Run → Move} (h : Acquires i after) {S : Regs}
    (hafter : ∀ (r : Run) (b0 b1 b2 b3 b4 b5 b6 b7 : Byte),
      (after (r.stage (S.cleared.takeSample b0 b1 b2 b3 b4 b5 b6 b7))).Meets (AcquireWaits i S) (AcquireDone i S))
    {r : Run} {txn : Txn} (hw : AcquireWaits i S r txn) (answer : Option (List Byte)) :
    (r.answered.resume txn answer).Meets (AcquireWaits i S) (AcquireDone i S) := by
  obtain ⟨hc, hs, htxn⟩ := hw
  rw [h.resumes r.answered _ _ hc]
  rcases htxn with rfl | rfl
  · show (burstAnswered after r.answered answer).Meets _ _
    unfold burstAnswered
    split
    · rw [Run.answered_staged, hs]
      exact hafter ..
    · exact acquireDone_of_cleared (r := r.answered) hs _
  · have hburst : (Move.issue burstTxn r.answered).Meets (AcquireWaits i S) (AcquireDone i S) := ⟨hc, hs, .inl rfl⟩
    exact controlWritten_meets hburst (acquireDone_of_cleared (r := r.answered) hs _) answer

/-- Settles O27, over everything an acquiring command's sequence can do. -/
theorem acquiringCommandsFrame : Obligations.AcquiringCommandsFrame := by
  unfold Obligations.AcquiringCommandsFrame
  intro s t i hi hexec
  obtain ⟨after, h, hafter⟩ := exists_acquires_meets hi s.regs
  obtain ⟨hregs, hsensor⟩ := exec_outcome hexec (AcquireWaits i s.regs) (AcquireDone i s.regs)
    (by rw [h.begins]; exact acquireBegin_meets _ i s.regs) fun _ _ answer hw => hw.resume_meets h hafter answer
  have hkeeps : AcquireKeeps i s.regs t.regs := by
    rcases hregs with h | ⟨r, code, hd, h⟩ <;> rw [h]
    · exact .refl ..
    · exact hd
  refine ⟨hkeeps.ready, hkeeps.chipId, hkeeps.cal, hkeeps.ctrlHum, hkeeps.ctrlMeas, hkeeps.config,
    fun a ha => hsensor a ?_, hkeeps.temp, hkeeps.pres, hkeeps.hum, hkeeps.tunit⟩
  rintro r b v ⟨-, -, htxn | htxn⟩ <;> cases htxn
  exact ha

end Sys2Proof.Machine
end

section
/-! SUPPORT. Proofs about compensation (42_compensation.md): the checked operations, the three formulas followed by exact
integers, the commands COMPT, COMPP and COMPH, and the host's presentation. -/

namespace Sys2Proof.Machine

/-! ## The checked operations (42_compensation.md R180 to R182) -/

theorem fits_toInt {w : Nat} (x : BitVec w) : Fits w x.toInt := ⟨x.le_toInt, x.toInt_lt⟩

/-- What R180 says of one operation whose exact result is `e`. -/
theorem Checked.ofExact_spec {w : Nat} (hw : 0 < w) (e : Int) (o : Bool) :
    let r : Checked w := .ofExact e o
    Fits w r.val.toInt ∧ (2 ^ w : Int) ∣ e - r.val.toInt ∧ (r.ovf = true ↔ o = true ∨ ¬Fits w e) := by
  refine ⟨fits_toInt _, ?_, ?_⟩
  · rw [Checked.ofExact, BitVec.toInt_ofInt]
    exact_mod_cast Int.dvd_self_sub_bmod
  · rw [← Bool.not_eq_false, Checked.ofExact_ovf hw, not_and_or, Bool.not_eq_false]

/-- Settles O28: each operation is `Checked.ofExact` of its exact result. -/
theorem checkedOperationsWrapAndRecord : Obligations.CheckedOperationsWrapAndRecord := by
  unfold Obligations.CheckedOperationsWrapAndRecord
  intro w a b r e o k hw h
  rcases h with ⟨rfl, rfl, rfl⟩ | ⟨rfl, rfl, rfl⟩ | ⟨rfl, rfl, rfl⟩ | ⟨rfl, rfl, rfl⟩ <;>
    exact Checked.ofExact_spec hw _ _

theorem Checked.shr_toInt {w : Nat} (a : Checked w) (k : Nat) : (a.shr k).val.toInt = a.val.toInt / 2 ^ k := by
  rw [Checked.shr, BitVec.toInt_sshiftRight, Int.shiftRight_eq_div_pow]
  norm_cast

/-- Settles O29: the shift is the floored quotient. -/
theorem rightShiftFloors : Obligations.RightShiftFloors := by
  unfold Obligations.RightShiftFloors
  refine ⟨fun w a k => ?_, by decide⟩
  have hpos : (0 : Int) < 2 ^ k := by positivity
  rw [Checked.shr_toInt]
  exact ⟨Int.ediv_mul_le _ hpos.ne', Int.lt_ediv_add_one_mul_self _ hpos, rfl⟩

/-- The quotient's magnitude is floored. -/
theorem abs_tdiv_bounds (a : Int) {b : Int} (hb : b ≠ 0) :
    |a.tdiv b| * |b| ≤ |a| ∧ |a| < (|a.tdiv b| + 1) * |b| := by
  simp only [Int.abs_eq_natAbs, Int.natAbs_tdiv]
  norm_cast
  exact ⟨Nat.div_mul_le_self _ _, (Nat.lt_mul_div_succ _ (Int.natAbs_pos.2 hb)).trans_eq (Nat.mul_comm _ _)⟩

/-- The quotient has the sign of the product, or is 0. -/
theorem tdiv_mul_nonneg (a b : Int) : 0 ≤ a.tdiv b * (a * b) := by
  rw [← Int.sign_nonneg_iff, Int.sign_mul, Int.sign_mul, Int.sign_tdiv]
  split
  · rw [zero_mul]
  · exact mul_self_nonneg _

/-- Only the lowest dividend by -1 has a quotient out of range (42_compensation.md R182). -/
theorem fits_tdiv {a b : Int} (ha : Fits 64 a) (hb : b ≠ 0) (h : ¬(a = -2 ^ 63 ∧ b = -1)) : Fits 64 (a.tdiv b) := by
  unfold Fits at ha ⊢
  by_cases hone : |b| = 1
  · rcases eq_or_eq_neg_of_abs_eq hone with rfl | rfl
    · rwa [Int.tdiv_one]
    · rw [Int.tdiv_neg, Int.tdiv_one]
      omega
  · have htwo : 2 ≤ |b| := by
      have := Int.one_le_abs hb
      omega
    have hq : |a.tdiv b| * 2 ≤ |a| :=
      (mul_le_mul_of_nonneg_left htwo (abs_nonneg _)).trans (abs_tdiv_bounds a hb).1
    have ha' : |a| ≤ 2 ^ 63 := abs_le.2 (by omega)
    have hq' := abs_le.1 (show |a.tdiv b| ≤ 2 ^ 62 by omega)
    omega

/-- Settles O30: where the quotient fits it is exact, and the one that does not fit wraps. -/
theorem divisionTruncatesTowardZero : Obligations.DivisionTruncatesTowardZero := by
  unfold Obligations.DivisionTruncatesTowardZero
  intro a b hb
  refine ⟨fun h => ?_, fun ha hb' => ?_⟩
  · have hfits := fits_tdiv (fits_toInt a.val) hb h
    have hval : (a.div b).val.toInt = a.val.toInt.tdiv b.val.toInt := (toInt_ofInt_eq_iff (by decide) _).2 hfits
    rw [hval]
    refine ⟨?_, (abs_tdiv_bounds _ hb).1, (abs_tdiv_bounds _ hb).2, tdiv_mul_nonneg ..⟩
    rw [Checked.div, Checked.ofExact, (toInt_ofInt_eq_iff (by decide) _).2 hfits, bne_self_eq_false, Bool.or_false]
  · have hwraps : (BitVec.ofInt 64 ((-2 ^ 63 : Int).tdiv (-1))).toInt = -2 ^ 63 := by decide
    rw [Checked.div, ha, hb', Checked.ofExact, hwraps]
    exact ⟨by rw [Bool.or_eq_true]; exact .inr (by decide), rfl⟩

/-! ## What fits a width -/

theorem Fits.mono {m w : Nat} {e : Int} (h : Fits m e) (hmw : m ≤ w) : Fits w e := by
  have hpow : (2 : Int) ^ (m - 1) ≤ 2 ^ (w - 1) := pow_le_pow_right₀ (by norm_num) (by omega)
  exact ⟨(neg_le_neg hpow).trans h.1, h.2.trans_le hpow⟩

theorem fits_toNat {m w : Nat} (x : BitVec m) (hmw : m < w) : Fits w x.toNat := by
  have hx : (x.toNat : Int) < 2 ^ m := by exact_mod_cast x.isLt
  have h : Fits (m + 1) x.toNat := ⟨(neg_nonpos.2 (by positivity)).trans (Int.natCast_nonneg _), hx⟩
  exact h.mono hmw

theorem fits_sext12 (hi : Byte) (nibble : BitVec 4) : Fits 12 (sext12 hi nibble) := sext12_range hi nibble

/-- Every coefficient fits the width. -/
structure Coeffs.Fit (w : Nat) (c : Coeffs) : Prop where
  t1 : Fits w c.t1
  t2 : Fits w c.t2
  t3 : Fits w c.t3
  p1 : Fits w c.p1
  p2 : Fits w c.p2
  p3 : Fits w c.p3
  p4 : Fits w c.p4
  p5 : Fits w c.p5
  p6 : Fits w c.p6
  p7 : Fits w c.p7
  p8 : Fits w c.p8
  p9 : Fits w c.p9
  h1 : Fits w c.h1
  h2 : Fits w c.h2
  h3 : Fits w c.h3
  h4 : Fits w c.h4
  h5 : Fits w c.h5
  h6 : Fits w c.h6

/-- The coefficients are exact at the working widths (42_compensation.md R183), whatever the table. -/
theorem coeffs_fit (cal : Vector Byte 32) : (coeffs cal).Fit 17 := by
  have hunsigned (lo hi : Byte) : Fits 17 (le16 lo hi).toNat := fits_toNat _ (by omega)
  have hsigned (lo hi : Byte) : Fits 17 (le16 lo hi).toInt := (fits_toInt _).mono (by omega)
  have hbyte (b : Byte) : Fits 17 b.toNat := fits_toNat _ (by omega)
  have hnibble (hi : Byte) (n : BitVec 4) : Fits 17 (sext12 hi n) := (fits_sext12 hi n).mono (by omega)
  exact ⟨hunsigned .., hsigned .., hsigned .., hunsigned .., hsigned .., hsigned .., hsigned .., hsigned .., hsigned ..,
    hsigned .., hsigned .., hsigned .., hbyte _, hsigned .., hbyte _, hnibble .., hnibble ..,
    (fits_toInt _).mono (by omega)⟩

/-! ## One exact number along a formula -/

/-- A literal or operand of `m` bits is exact at any width from `m` on. -/
theorem Checked.lit_tracks_of_le {m w : Nat} {x : Int} (hx : Fits m x) (hmw : m ≤ w := by decide)
    (hw : 0 < w := by decide) : (Checked.lit x : Checked w).Tracks x True := Checked.lit_tracks hw (hx.mono hmw)

section
variable {w : Nat} {a : Checked w} {e x : Int} {P Q : Prop}

/-- An operation's exact result under a name of its own. -/
theorem Checked.Tracks.named (h : a.Tracks e (P ∧ Fits w e)) (hx : x = e) : a.Tracks x (P ∧ Fits w x) := hx ▸ h

/-- A right shift's exact result under a name of its own. -/
theorem Checked.Tracks.shrNamed {k : Nat} (h : a.Tracks e P) (hx : x = e / 2 ^ k) : (a.shr k).Tracks x P := hx ▸ h.shr k

theorem Checked.Tracks.of_iff (h : a.Tracks e P) (hpq : P ↔ Q) : a.Tracks e Q := ⟨h.clear.trans hpq, h.exact⟩

end

/-! ## The temperature formula (42_compensation.md R191) -/

theorem tempFormula_tracks {adcT : BitVec 20} {c : Coeffs} (hc : c.Fit 17) {a m1 var1 b m2 m3 var2 tFine m4 : Int}
    (ha : a = (adcT.toNat : Int) / 2 ^ 3 - c.t1 * 2) (hm1 : m1 = a * c.t2) (hvar1 : var1 = m1 / 2 ^ 11)
    (hb : b = (adcT.toNat : Int) / 2 ^ 4 - c.t1) (hm2 : m2 = b * b) (hm3 : m3 = m2 / 2 ^ 12 * c.t3)
    (hvar2 : var2 = m3 / 2 ^ 14) (htFine : tFine = var1 + var2) (hm4 : m4 = tFine * 5) :
    (tempFormula adcT c).tFine.Tracks tFine (∀ e ∈ [a, m1, b, m2, m3, tFine], Fits 32 e) ∧
    (tempFormula adcT c).tOut.Tracks ((m4 + 128) / 2 ^ 8)
      (∀ e ∈ [a, m1, b, m2, m3, tFine, m4, m4 + 128], Fits 32 e) := by
  have hw : 0 < 32 := by decide
  have hadc := Checked.lit_tracks hw (fits_toNat adcT (by decide))
  have hdouble : Fits 32 (c.t1 * 2 ^ 1) := by
    have ht1 := hc.t1
    unfold Fits at ht1 ⊢
    omega
  have hA := ((hadc.shr 3).sub hw ((Checked.lit_tracks_of_le hc.t1).shl hw 1)).named ha
  have hV1 := ((hA.mul hw (Checked.lit_tracks_of_le hc.t2)).named hm1).shrNamed hvar1
  have hB := ((hadc.shr 4).sub hw (Checked.lit_tracks_of_le hc.t1)).named hb
  have hM2 := (hB.mul hw hB).named hm2
  have hV2 := (((hM2.shr 12).mul hw (Checked.lit_tracks_of_le hc.t3)).named hm3).shrNamed hvar2
  have hF := (hV1.add hw hV2).named htFine
  have hM4 := (hF.mul hw (Checked.lit_tracks hw (x := 5) ⟨by decide, by decide⟩)).named hm4
  have hO := (hM4.add hw (Checked.lit_tracks hw (x := 128) ⟨by decide, by decide⟩)).shr 8
  unfold tempFormula
  refine ⟨hF.of_iff ?_, hO.of_iff ?_⟩ <;>
    simp only [hdouble, List.forall_mem_cons, List.not_mem_nil, false_implies, implies_true, and_true, true_and] <;>
    tauto

/-- Settles O32, from the exact integers followed along the formula. -/
theorem temperatureIsExactWithoutOverflow : Obligations.TemperatureIsExactWithoutOverflow := by
  unfold Obligations.TemperatureIsExactWithoutOverflow
  rintro adcT cal c r a m1 var1 b m2 m3 var2 tFine m4 rfl rfl ha hm1 hvar1 hb hm2 hm3 hvar2 htFine hm4
  obtain ⟨hF, hO⟩ := tempFormula_tracks (coeffs_fit cal) ha hm1 hvar1 hb hm2 hm3 hvar2 htFine hm4
  refine ⟨hO.clear, fun h => ⟨hF.exact (hF.clear.2 fun e he => ?_), hO.exact h⟩⟩
  exact hO.clear.1 h e (List.mem_append_left [m4, m4 + 128] he)

/-! ## The pressure formula (42_compensation.md R202 to R205) -/

/-- The operations before the guard: the denominator, which the guard tests, and the second accumulator. -/
theorem presDenominator_tracks {tf : BitVec 32} {c : Coeffs} (hc : c.Fit 17)
    {v q1 a2 q2 q3 b2 q4 var2 q6 q8 q9 var1 q10 q11 den : Int} (hv : v = tf.toInt - 128000) (hq1 : q1 = v * v)
    (ha2 : a2 = q1 * c.p6) (hq2 : q2 = v * c.p5) (hq3 : q3 = q2 * 2 ^ 17) (hb2 : b2 = a2 + q3) (hq4 : q4 = c.p4 * 2 ^ 35)
    (hvar2 : var2 = b2 + q4) (hq6 : q6 = q1 * c.p3) (hq8 : q8 = v * c.p2) (hq9 : q9 = q8 * 2 ^ 12)
    (hvar1 : var1 = q6 / 2 ^ 8 + q9) (hq10 : q10 = 2 ^ 47 + var1) (hq11 : q11 = q10 * c.p1) (hden : den = q11 / 2 ^ 33) :
    (presDenominator tf c).var1.Tracks den (∀ e ∈ [v, q1, q6, q8, q9, var1, q10, q11], Fits 64 e) ∧
    (presDenominator tf c).var2.Tracks var2 (∀ e ∈ [v, q1, a2, q2, q3, b2, q4, var2], Fits 64 e) := by
  have hw : 0 < 64 := by decide
  have hV := ((Checked.lit_tracks_of_le (fits_toInt tf)).sub hw
    (Checked.lit_tracks hw (x := 128000) ⟨by decide, by decide⟩)).named hv
  have hQ1 := (hV.mul hw hV).named hq1
  have hA2 := (hQ1.mul hw (Checked.lit_tracks_of_le hc.p6)).named ha2
  have hQ2 := (hV.mul hw (Checked.lit_tracks_of_le hc.p5)).named hq2
  have hQ3 := (hQ2.shl hw 17).named hq3
  have hB2 := (hA2.add hw hQ3).named hb2
  have hQ4 := ((Checked.lit_tracks_of_le hc.p4).shl hw 35).named hq4
  have hVar2 := (hB2.add hw hQ4).named hvar2
  have hQ6 := (hQ1.mul hw (Checked.lit_tracks_of_le hc.p3)).named hq6
  have hQ8 := (hV.mul hw (Checked.lit_tracks_of_le hc.p2)).named hq8
  have hQ9 := (hQ8.shl hw 12).named hq9
  have hVar1 := ((hQ6.shr 8).add hw hQ9).named hvar1
  have hQ10 := ((Checked.lit_tracks hw (x := 2 ^ 47) ⟨by decide, by decide⟩).add hw hVar1).named hq10
  have hQ11 := (hQ10.mul hw (Checked.lit_tracks_of_le hc.p1)).named hq11
  have hDen := hQ11.shrNamed hden
  unfold presDenominator
  refine ⟨hDen.of_iff ?_, hVar2.of_iff ?_⟩ <;>
    simp only [List.forall_mem_cons, List.not_mem_nil, false_implies, implies_true, and_true, true_and] <;>
    tauto

/-- The operations after the guard, from a denominator and an accumulator that are tracked themselves. -/
theorem presQuotient_tracks {adcP : BitVec 20} {c : Coeffs} (hc : c.Fit 17) {d : PresStage} {P Q : Prop}
    {den var2 p q12 q13 q14 p2 s q15 q16 q17 q18 q19 q21 res : Int} (hden : d.var1.Tracks den P)
    (hvar2 : d.var2.Tracks var2 Q) (hp : p = 1048576 - (adcP.toNat : Int)) (hq12 : q12 = p * 2 ^ 31)
    (hq13 : q13 = q12 - var2) (hq14 : q14 = q13 * 3125) (hp2 : p2 = q14.tdiv den) (hs : s = p2 / 2 ^ 13)
    (hq15 : q15 = c.p9 * s) (hq16 : q16 = q15 * s) (hq17 : q17 = c.p8 * p2) (hq18 : q18 = p2 + q16 / 2 ^ 25)
    (hq19 : q19 = q18 + q17 / 2 ^ 19) (hq21 : q21 = c.p7 * 2 ^ 4) (hres : res = q19 / 2 ^ 8 + q21) :
    (presQuotient adcP d c).Tracks res
      (P ∧ Q ∧ ∀ e ∈ [p, q12, q13, q14, p2, q15, q16, q17, q18, q19, q21, res], Fits 64 e) := by
  have hw : 0 < 64 := by decide
  have hP := ((Checked.lit_tracks hw (x := 1048576) ⟨by decide, by decide⟩).sub hw
    (Checked.lit_tracks hw (fits_toNat adcP (by decide)))).named hp
  have hQ12 := (hP.shl hw 31).named hq12
  have hQ13 := (hQ12.sub hw hvar2).named hq13
  have hQ14 := (hQ13.mul hw (Checked.lit_tracks hw (x := 3125) ⟨by decide, by decide⟩)).named hq14
  have hP2 := (hQ14.div hw hden).named hp2
  have hS := hP2.shrNamed hs
  have hQ15 := ((Checked.lit_tracks_of_le hc.p9).mul hw hS).named hq15
  have hQ16 := (hQ15.mul hw hS).named hq16
  have hQ17 := ((Checked.lit_tracks_of_le hc.p8).mul hw hP2).named hq17
  have hQ18 := (hP2.add hw (hQ16.shr 25)).named hq18
  have hQ19 := (hQ18.add hw (hQ17.shr 19)).named hq19
  have hQ21 := ((Checked.lit_tracks_of_le hc.p7).shl hw 4).named hq21
  unfold presQuotient
  refine (((hQ19.shr 8).add hw hQ21).named hres).of_iff ?_
  simp only [List.forall_mem_cons, List.not_mem_nil, false_implies, implies_true, and_true, true_and]
  tauto

/-- The guard tests the wrapped denominator (42_compensation.md R203). -/
theorem presFormula_eq (adcP : BitVec 20) (tf : BitVec 32) (c : Coeffs) : presFormula adcP tf c =
    if (presDenominator tf c).var1.val = 0#64 then
      .div0 ((presDenominator tf c).var1.ovf || (presDenominator tf c).var2.ovf)
    else .pressure (narrowPressure (presQuotient adcP (presDenominator tf c) c)) := by
  unfold presFormula
  rfl

theorem presFormula_eq_div0_iff {adcP : BitVec 20} {tf : BitVec 32} {c : Coeffs} {o : Bool} :
    presFormula adcP tf c = .div0 o ↔ (presDenominator tf c).var1.val = 0#64 ∧
      ((presDenominator tf c).var1.ovf || (presDenominator tf c).var2.ovf) = o := by
  rw [presFormula_eq]
  split <;> simp [*]

theorem presFormula_eq_pressure_iff {adcP : BitVec 20} {tf : BitVec 32} {c : Coeffs} {r : Checked 32} :
    presFormula adcP tf c = .pressure r ↔ (presDenominator tf c).var1.val ≠ 0#64 ∧
      narrowPressure (presQuotient adcP (presDenominator tf c) c) = r := by
  rw [presFormula_eq]
  split <;> simp [*]

/-- The narrowing of an exact number (42_compensation.md R204): its low 32 bits. -/
theorem narrowPressure_of_toInt {p : Checked 64} {e : Int} (hovf : p.ovf = false) (he : p.val.toInt = e) :
    narrowPressure p = { val := .ofInt 32 e, ovf := decide (e < 0 ∨ 2 ^ 32 ≤ e) } := by
  subst he
  unfold narrowPressure
  congr 1
  · exact (BitVec.signExtend_eq_setWidth_of_le p.val (by decide)).symm
  · simp [hovf]

/-- Settles O35, from the exact integers followed along the formula's two halves. -/
theorem pressureIsExactWithoutOverflow : Obligations.PressureIsExactWithoutOverflow := by
  unfold Obligations.PressureIsExactWithoutOverflow
  rintro adcP tf cal c v q1 a2 q2 q3 b2 q4 var2 q6 q8 q9 var1 q10 q11 den p q12 q13 q14 p2 s q15 q16 q17 q18 q19 q21 res
    before behind rfl hv hq1 ha2 hq2 hq3 hb2 hq4 hvar2 hq6 hq8 hq9 hvar1 hq10 hq11 hden hp hq12 hq13 hq14 hp2 hs hq15 hq16
    hq17 hq18 hq19 hq21 hres hbefore hbehind
  obtain ⟨hD, hV⟩ := presDenominator_tracks (coeffs_fit cal) hv hq1 ha2 hq2 hq3 hb2 hq4 hvar2 hq6 hq8 hq9 hvar1 hq10
    hq11 hden
  have hR := presQuotient_tracks (coeffs_fit cal) hD hV hp hq12 hq13 hq14 hp2 hs hq15 hq16 hq17 hq18 hq19 hq21 hres
  have hguard : ((presDenominator tf (coeffs cal)).var1.ovf || (presDenominator tf (coeffs cal)).var2.ovf) = false ↔
      ∀ e ∈ before, Fits 64 e := by
    rw [hD.both hV, hbefore]
    simp only [List.forall_mem_cons, List.not_mem_nil, false_implies, implies_true, and_true]
    tauto
  have hall := hR.of_iff (Q := ∀ e ∈ before ++ behind, Fits 64 e) (by
    rw [← and_assoc, ← hD.both hV, hguard, hbehind, List.forall_mem_append])
  have hzero (h : ∀ e ∈ before, Fits 64 e) : (presDenominator tf (coeffs cal)).var1.val = 0#64 ↔ den = 0 := by
    rw [← hD.exact (Bool.or_eq_false_iff.1 (hguard.2 h)).1, ← BitVec.toInt_inj, BitVec.toInt_zero]
  refine ⟨fun o ho => ?_, fun r hr => ?_, fun h hdz => ?_, fun h hdz => ?_⟩
  · rw [← (presFormula_eq_div0_iff.1 ho).2]
    exact hguard
  · rw [← (presFormula_eq_pressure_iff.1 hr).2]
    exact narrowPressure_ovf hall
  · exact presFormula_eq_div0_iff.2 ⟨(hzero h).2 hdz, hguard.2 h⟩
  · have hovf := hall.clear.2 h
    refine presFormula_eq_pressure_iff.2
      ⟨mt (hzero fun e he => ?_).1 hdz, narrowPressure_of_toInt hovf (hall.exact hovf)⟩
    exact h e (List.mem_append_left _ he)

/-! ## The humidity formula (42_compensation.md R216, R217) -/

theorem humPolynomial_tracks {adcH : BitVec 16} {tf : BitVec 32} {c : Coeffs} (hc : c.Fit 17)
    {v a1 a2 a3 a4 a5 a6 b1 c1 c3 d1 d3 e1 e2 m s f1 f3 x : Int} (hv : v = tf.toInt - 76800)
    (ha1 : a1 = (adcH.toNat : Int) * 2 ^ 14) (ha2 : a2 = c.h4 * 2 ^ 20) (ha3 : a3 = a1 - a2) (ha4 : a4 = c.h5 * v)
    (ha5 : a5 = a3 - a4) (ha6 : a6 = a5 + 16384) (hb1 : b1 = v * c.h6) (hc1 : c1 = v * c.h3)
    (hc3 : c3 = c1 / 2 ^ 11 + 32768) (hd1 : d1 = b1 / 2 ^ 10 * c3) (hd3 : d3 = d1 / 2 ^ 10 + 2097152)
    (he1 : e1 = d3 * c.h2) (he2 : e2 = e1 + 8192) (hm : m = a6 / 2 ^ 15 * (e2 / 2 ^ 14)) (hs : s = m / 2 ^ 15)
    (hf1 : f1 = s * s) (hf3 : f3 = f1 / 2 ^ 7 * c.h1) (hx : x = m - f3 / 2 ^ 4) :
    (humPolynomial adcH tf c).Tracks x
      (∀ e ∈ [v, a1, a2, a3, a4, a5, a6, b1, c1, c3, d1, d3, e1, e2, m, f1, f3, x], Fits 32 e) := by
  have hw : 0 < 32 := by decide
  have hV := ((Checked.lit_tracks_of_le (fits_toInt tf)).sub hw
    (Checked.lit_tracks hw (x := 76800) ⟨by decide, by decide⟩)).named hv
  have hA1 := ((Checked.lit_tracks hw (fits_toNat adcH (by decide))).shl hw 14).named ha1
  have hA2 := ((Checked.lit_tracks_of_le hc.h4).shl hw 20).named ha2
  have hA3 := (hA1.sub hw hA2).named ha3
  have hA4 := ((Checked.lit_tracks_of_le hc.h5).mul hw hV).named ha4
  have hA5 := (hA3.sub hw hA4).named ha5
  have hA6 := (hA5.add hw (Checked.lit_tracks hw (x := 16384) ⟨by decide, by decide⟩)).named ha6
  have hB1 := (hV.mul hw (Checked.lit_tracks_of_le hc.h6)).named hb1
  have hC1 := (hV.mul hw (Checked.lit_tracks_of_le hc.h3)).named hc1
  have hC3 := ((hC1.shr 11).add hw (Checked.lit_tracks hw (x := 32768) ⟨by decide, by decide⟩)).named hc3
  have hD1 := ((hB1.shr 10).mul hw hC3).named hd1
  have hD3 := ((hD1.shr 10).add hw (Checked.lit_tracks hw (x := 2097152) ⟨by decide, by decide⟩)).named hd3
  have hE1 := (hD3.mul hw (Checked.lit_tracks_of_le hc.h2)).named he1
  have hE2 := (hE1.add hw (Checked.lit_tracks hw (x := 8192) ⟨by decide, by decide⟩)).named he2
  have hM := ((hA6.shr 15).mul hw (hE2.shr 14)).named hm
  have hS := hM.shrNamed hs
  have hF1 := (hS.mul hw hS).named hf1
  have hF3 := ((hF1.shr 7).mul hw (Checked.lit_tracks_of_le hc.h1)).named hf3
  have hX := (hM.sub hw (hF3.shr 4)).named hx
  unfold humPolynomial
  refine hX.of_iff ?_
  simp only [List.forall_mem_cons, List.not_mem_nil, false_implies, implies_true, and_true, true_and]
  tauto

/-- The clamp and the last shift add no overflow of their own (42_compensation.md R217). -/
theorem humFormula_eq (adcH : BitVec 16) (tf : BitVec 32) (c : Coeffs) : humFormula adcH tf c =
    { val := .ofInt 32 (clampHumidity (humPolynomial adcH tf c).val.toInt / 2 ^ 12)
      ovf := (humPolynomial adcH tf c).ovf } := by
  unfold humFormula
  rfl

/-- Settles O38, from the exact integers followed along the polynomial. -/
theorem humidityIsExactWithoutOverflow : Obligations.HumidityIsExactWithoutOverflow := by
  unfold Obligations.HumidityIsExactWithoutOverflow
  rintro adcH tf cal c v a1 a2 a3 a4 a5 a6 b1 c1 c3 d1 d3 e1 e2 m s f1 f3 x rfl hv ha1 ha2 ha3 ha4 ha5 ha6 hb1 hc1 hc3
    hd1 hd3 he1 he2 hm hs hf1 hf3 hx
  have hX := humPolynomial_tracks (coeffs_fit cal) hv ha1 ha2 ha3 ha4 ha5 ha6 hb1 hc1 hc3 hd1 hd3 he1 he2 hm hs hf1 hf3
    hx
  rw [humFormula_eq]
  refine ⟨hX.clear, fun (hovf : (humPolynomial adcH tf (coeffs cal)).ovf = false) => ?_⟩
  rw [hX.exact hovf, hovf]
  rfl

theorem clampHumidity_eq (v : Int) :
    clampHumidity v = if v < 0 then 0 else if 419430400 < v then 419430400 else v := by
  unfold clampHumidity Config.humidityCeiling
  omega

theorem clampHumidity_range (v : Int) : 0 ≤ clampHumidity v ∧ clampHumidity v ≤ 419430400 := by
  rw [clampHumidity_eq]
  split_ifs <;> omega

/-- The clamped polynomial shifted right by 12 is held as it is. -/
theorem humFormula_toNat (adcH : BitVec 16) (tf : BitVec 32) (c : Coeffs) :
    ((humFormula adcH tf c).val.toNat : Int) = clampHumidity (humPolynomial adcH tf c).val.toInt / 2 ^ 12 := by
  have hrange := clampHumidity_range (humPolynomial adcH tf c).val.toInt
  rw [humFormula_eq, BitVec.toNat_ofInt]
  omega

/-- Settles O39: the clamped value shifted needs 17 bits. -/
theorem humidityIsClamped : Obligations.HumidityIsClamped := by
  unfold Obligations.HumidityIsClamped
  rintro adcH tf cal v rfl
  have hval := humFormula_toNat adcH tf (coeffs cal)
  have hrange := clampHumidity_range (humPolynomial adcH tf (coeffs cal)).val.toInt
  exact ⟨hval.trans (by rw [clampHumidity_eq]), by omega, by rw [humFormula_eq]⟩

/-! ## The dependency enforcer (42_compensation.md R185) -/

theorem dependencyCheck_notReady (needsTfine : Bool) {S : Regs} (h : S.ready = false) :
    dependencyCheck needsTfine S = some .notInitialized := by
  simp [dependencyCheck, h]

theorem dependencyCheck_violation {needsTfine : Bool} {S : Regs} (hready : S.ready = true)
    (h : S.rawValid = false ∨ needsTfine = true ∧ S.tfineValid = false) :
    dependencyCheck needsTfine S = some .dependencyViolation := by
  rcases h with h | ⟨hneeds, h⟩
  · simp [dependencyCheck, hready, h]
  · simp [dependencyCheck, hready, hneeds, h]

section
variable {r : Run} {code : ErrorCode}

theorem comptBegin_some (h : dependencyCheck false r.staged = some code) (tu : TempUnit) :
    comptBegin tu r = .finish code (r.stage { r.staged with tValid := false }) := by
  rw [comptBegin, h]
  rfl

theorem comptBegin_none (h : dependencyCheck false r.staged = none) (tu : TempUnit) :
    comptBegin tu r = .finish .ok (r.stage (tempStep (some tu) r.staged)) := by
  rw [comptBegin, h]
  rfl

theorem comppBegin_some (h : dependencyCheck true r.staged = some code) (pu : BitVec 4) :
    comppBegin pu r = .finish code (r.stage { r.staged with pValid := false }) := by
  rw [comppBegin, h]
  rfl

theorem comppBegin_none (h : dependencyCheck true r.staged = none) (pu : BitVec 4) :
    comppBegin pu r = .finish (presStep pu r.staged).code (r.stage (presStep pu r.staged).regs) := by
  rw [comppBegin, h]
  rfl

theorem comphBegin_some (h : dependencyCheck true r.staged = some code) :
    comphBegin r = .finish code (r.stage { r.staged with hValid := false }) := by
  rw [comphBegin, h]
  rfl

theorem comphBegin_none (h : dependencyCheck true r.staged = none) :
    comphBegin r = .finish .ok (r.stage (humStep r.staged)) := by
  rw [comphBegin, h]
  rfl

end

/-- A command that finishes without a transaction commits the registers `S` it staged. -/
theorem exec_finish {s : State} (hp : s.phase = .idle) (ho : GoesOn s.oracle) {i : Instr} {code : ErrorCode} {S T : Regs}
    (hb : begins s.params i (Run.start (.legal i) s.regs) = .finish code ((Run.start (.legal i) s.regs).stage S))
    (hS : S.finished code = T) : exec i s = .next { s with regs := T } := by
  rw [exec_eq_accept, State.accept_finish hp ho hb, Run.stage_staged, hS]

/-- Settles O34: the failing check decides the code, and the command stages its own VALID bit alone. -/
theorem dependencyEnforcer : Obligations.DependencyEnforcer := by
  unfold Obligations.DependencyEnforcer
  intro s tu pu code hp ho
  refine ⟨fun h => ?_, fun h => ?_⟩
  · have hcheck : dependencyCheck false { s.regs with aovf := false } = some code := by
      rcases h with ⟨hready, rfl⟩ | ⟨hready, hraw, rfl⟩
      · exact dependencyCheck_notReady _ hready
      · exact dependencyCheck_violation hready (.inl hraw)
    exact exec_finish hp ho (comptBegin_some hcheck tu) (by simp [Regs.finished])
  · have hcheck : dependencyCheck true { s.regs with aovf := false } = some code := by
      rcases h with ⟨hready, rfl⟩ | ⟨hready, hinvalid, rfl⟩
      · exact dependencyCheck_notReady _ hready
      · exact dependencyCheck_violation hready (hinvalid.imp_right (⟨rfl, ·⟩))
    exact ⟨exec_finish hp ho (comppBegin_some hcheck pu) (by simp [Regs.finished]),
      exec_finish hp ho (comphBegin_some hcheck) (by simp [Regs.finished])⟩

/-! ## COMPT, COMPP and COMPH on a valid sample -/

/-- Settles O33: the check passes and T_STEP is committed. -/
theorem comptComputesTheTemperature : Obligations.ComptComputesTheTemperature := by
  unfold Obligations.ComptComputesTheTemperature
  rintro s tu r hp ho hready hraw rfl
  have hcheck : dependencyCheck false { s.regs with aovf := false } = none :=
    (dependencyCheck_eq_none_iff _ _).2 ⟨hready, hraw, nofun⟩
  exact exec_finish hp ho (comptBegin_none hcheck tu) rfl

theorem presStep_of_div0 {pu : BitVec 4} {S : Regs} {o : Bool} (h : presFormula S.adcP S.tFine (coeffs S.cal) = .div0 o) :
    presStep pu S = { regs := { S.addOvf o with punit := pu, pValid := false }, code := .divideByZero } := by
  rw [presStep, h]

theorem presStep_of_pressure {pu : BitVec 4} {S : Regs} {p : Checked 32}
    (h : presFormula S.adcP S.tFine (coeffs S.cal) = .pressure p) :
    presStep pu S = { regs := { S.addOvf p.ovf with punit := pu, pOut := p.val, pValid := true }, code := .ok } := by
  rw [presStep, h]

/-- Settles O36: the check passes and what P_STEP ends with is committed. -/
theorem comppComputesThePressure : Obligations.ComppComputesThePressure := by
  unfold Obligations.ComppComputesThePressure
  intro s pu hp ho hready hraw htfine
  have hcheck : dependencyCheck true { s.regs with aovf := false } = none :=
    (dependencyCheck_eq_none_iff _ _).2 ⟨hready, hraw, fun _ => htfine⟩
  have hb := comppBegin_none (r := Run.start (.legal (.compp pu)) s.regs) hcheck pu
  refine ⟨fun p h => ?_, fun o h => ?_⟩
  · rw [presStep_of_pressure (S := (Run.start _ s.regs).staged) h] at hb
    exact exec_finish hp ho hb rfl
  · rw [presStep_of_div0 (S := (Run.start _ s.regs).staged) h] at hb
    exact exec_finish hp ho hb rfl

/-- Settles O40: the check passes and H_STEP is committed. -/
theorem comphComputesTheHumidity : Obligations.ComphComputesTheHumidity := by
  unfold Obligations.ComphComputesTheHumidity
  rintro s h hp ho hready hraw htfine rfl
  have hcheck : dependencyCheck true { s.regs with aovf := false } = none :=
    (dependencyCheck_eq_none_iff _ _).2 ⟨hready, hraw, fun _ => htfine⟩
  exact exec_finish hp ho (comphBegin_none hcheck) rfl

/-! ## P1 = 0 (42_compensation.md R203, R206) -/

theorem presDenominator_of_p1_zero (tf : BitVec 32) {c : Coeffs} (h : c.p1 = 0) :
    (presDenominator tf c).var1.val = 0#64 := by
  unfold presDenominator
  simp [Checked.shr, Checked.mul, Checked.ofExact, Checked.lit, h]

theorem coeffs_p1_zero {cal : Vector Byte 32} (h6 : cal[6] = 0#8) (h7 : cal[7] = 0#8) : (coeffs cal).p1 = 0 := by
  rw [coeffs, h6, h7]
  rfl

/-- Settles O37: the denominator is a product with P1. -/
theorem zeroP1DividesByZero : Obligations.ZeroP1DividesByZero := by
  unfold Obligations.ZeroP1DividesByZero
  intro s t pu hp ho hready hraw htfine h6 h7 h
  have hdiv0 := presFormula_eq_div0_iff (adcP := s.regs.adcP).2
    ⟨presDenominator_of_p1_zero s.regs.tFine (coeffs_p1_zero h6 h7), rfl⟩
  rw [(comppComputesThePressure s pu hp ho hready hraw htfine).2 _ hdiv0] at h
  cases h
  exact ⟨rfl, rfl, rfl, rfl⟩

/-! ## What the compensation commands leave alone, on any outcome -/

/-- A command whose beginning finishes, idle or busy: nothing leaves the block, and the registers are the old ones or the
committed ones. -/
theorem exec_finish_outcome {s t : State} {i : Instr} {code : ErrorCode} {run : Run} (h : exec i s = .next t)
    (hb : begins s.params i (Run.start (.legal i) s.regs) = .finish code run) {P : Regs → Prop} (hold : P s.regs)
    (hnew : P (run.staged.finished code)) :
    (t.sensor = s.sensor ∧ t.bus = s.bus ∧ t.oracle = s.oracle) ∧ P t.regs := by
  rw [exec_eq_accept] at h
  injection h with h
  subst h
  by_cases hp : s.phase = .idle
  · have ha := State.accept_outcome (c := .legal i) (begin := begins s.params i) (fun _ _ => False)
      (fun r c => r = run ∧ c = code) hp (by rw [hb]; exact ⟨rfl, rfl⟩) fun _ _ _ hw => hw.elim
    obtain ⟨hbus, horacle, hsensor⟩ := ha.silent fun _ _ => id
    refine ⟨⟨hsensor, hbus, horacle⟩, ?_⟩
    rcases ha.outcome with ⟨_, _, -, hw, -⟩ | ⟨_, _, -, -, hregs⟩ | ⟨_, _, -, ⟨rfl, rfl⟩, hregs⟩
    · exact hw.elim
    · rwa [hregs]
    · rwa [hregs]
  · rw [State.accept_busy hp]
    exact ⟨⟨rfl, rfl, rfl⟩, hold⟩

/-- What COMPT leaves of the registers `S` (42_compensation.md R193). -/
def ComptKeeps (S T : Regs) : Prop :=
  T = { S with tFine := T.tFine, tOut := T.tOut, tfineValid := T.tfineValid, tValid := T.tValid, tunit := T.tunit,
               err := T.err, aovf := T.aovf, aovfAny := T.aovfAny }

/-- What COMPP leaves of the registers `S` (42_compensation.md R206). -/
def ComppKeeps (S T : Regs) : Prop :=
  T = { S with pOut := T.pOut, pValid := T.pValid, punit := T.punit, err := T.err, aovf := T.aovf, aovfAny := T.aovfAny }

/-- What COMPH leaves of the registers `S` (42_compensation.md R218). -/
def ComphKeeps (S T : Regs) : Prop :=
  T = { S with hOut := T.hOut, hValid := T.hValid, err := T.err, aovf := T.aovf, aovfAny := T.aovfAny }

section
variable {s t : State}

theorem compt_frame {tu : TempUnit} (h : exec (.compt tu) s = .next t) :
    (t.sensor = s.sensor ∧ t.bus = s.bus ∧ t.oracle = s.oracle) ∧ ComptKeeps s.regs t.regs := by
  cases hcheck : dependencyCheck false (Run.start (.legal (.compt tu)) s.regs).staged with
  | some code => exact exec_finish_outcome h (comptBegin_some hcheck tu) rfl rfl
  | none => exact exec_finish_outcome h (comptBegin_none hcheck tu) rfl rfl

theorem compp_frame {pu : BitVec 4} (h : exec (.compp pu) s = .next t) :
    (t.sensor = s.sensor ∧ t.bus = s.bus ∧ t.oracle = s.oracle) ∧ ComppKeeps s.regs t.regs := by
  cases hcheck : dependencyCheck true (Run.start (.legal (.compp pu)) s.regs).staged with
  | some code => exact exec_finish_outcome h (comppBegin_some hcheck pu) rfl rfl
  | none =>
    have hb := comppBegin_none hcheck pu
    rcases presStep_regs_cases pu (Run.start (.legal (.compp pu)) s.regs).staged with ⟨o, -, hP⟩ | ⟨p, -, hP⟩ <;>
    · rw [hP] at hb
      exact exec_finish_outcome h hb rfl rfl

theorem comph_frame (h : exec .comph s = .next t) :
    (t.sensor = s.sensor ∧ t.bus = s.bus ∧ t.oracle = s.oracle) ∧ ComphKeeps s.regs t.regs := by
  cases hcheck : dependencyCheck true (Run.start (.legal .comph) s.regs).staged with
  | some code => exact exec_finish_outcome h (comphBegin_some hcheck) rfl rfl
  | none => exact exec_finish_outcome h (comphBegin_none hcheck) rfl rfl

end

/-- Settles O41, on a failing and a passing check of each command. -/
theorem compensationFrame : Obligations.CompensationFrame := by
  unfold Obligations.CompensationFrame
  intro s t i tu pu
  refine ⟨?_, fun h => (compt_frame h).2, fun h => (compp_frame h).2, fun h => (comph_frame h).2⟩
  rintro (rfl | rfl | rfl) h
  · exact (compt_frame h).1
  · exact (compp_frame h).1
  · exact (comph_frame h).1

/-! ## Rounding to binary64 (42_compensation.md R231) -/

/-- The exact quotient lies within half a unit of its rounding, and halfway only if that is even. -/
theorem roundHalfEven_spec (n : Nat) {d : Nat} (hd : 0 < d) :
    2 * n ≤ 2 * (roundHalfEven n d * d) + d ∧ 2 * (roundHalfEven n d * d) ≤ 2 * n + d ∧
    (2 * n = 2 * (roundHalfEven n d * d) + d ∨ 2 * (roundHalfEven n d * d) = 2 * n + d →
      roundHalfEven n d % 2 = 0) := by
  have hn := Nat.div_add_mod' n d
  have hr := Nat.mod_lt n hd
  unfold roundHalfEven
  dsimp only
  split_ifs with hdown hup
  · omega
  · rw [add_one_mul (n / d) d]
    omega
  · rcases Nat.mod_two_eq_zero_or_one (n / d) with heven | hodd
    · rw [heven, Nat.add_zero]
      omega
    · rw [hodd, add_one_mul (n / d) d]
      omega

theorem abs_roundHalfEven_sub (n : Nat) {d : Nat} (hd : 0 < d) :
    |(roundHalfEven n d : Rat) - n / d| ≤ 1 / 2 ∧
    (|(roundHalfEven n d : Rat) - n / d| = 1 / 2 → roundHalfEven n d % 2 = 0) := by
  obtain ⟨hl, hu, heven⟩ := roundHalfEven_spec n hd
  generalize roundHalfEven n d = m at *
  have hd' : (0 : Rat) < d := by exact_mod_cast hd
  have hl' : 2 * (n : Rat) ≤ 2 * (m * d) + d := by exact_mod_cast hl
  have hu' : 2 * (m * d) ≤ 2 * (n : Rat) + d := by exact_mod_cast hu
  have hscale : (m : Rat) - n / d = (2 * (m * d) - 2 * n) / d / 2 := by field_simp
  have habs : |(2 * (m * d) - 2 * n : Rat)| ≤ d := abs_le.2 ⟨by linarith, by linarith⟩
  rw [hscale, abs_div, abs_div, abs_two, abs_of_pos hd']
  refine ⟨by gcongr; exact (div_le_one hd').2 habs, fun htie => heven ?_⟩
  have hone : |(2 * (m * d) - 2 * n : Rat)| = d := by
    rwa [div_left_inj' two_ne_zero, div_eq_one_iff_eq hd'.ne'] at htie
  rcases eq_or_eq_neg_of_abs_eq hone with h | h
  · right
    have h' : 2 * (m * d) = 2 * (n : Rat) + d := by linarith
    exact_mod_cast h'
  · left
    have h' : 2 * (n : Rat) = 2 * (m * d) + d := by linarith
    exact_mod_cast h'

theorem two_zpow_of_nonneg {k : Int} (hk : 0 ≤ k) : (2 : Rat) ^ k = (2 ^ k.toNat : Nat) := by
  conv_lhs => rw [← Int.toNat_of_nonneg hk]
  norm_cast

theorem two_zpow_of_neg {k : Int} (hk : ¬0 ≤ k) : (2 : Rat) ^ k = ((2 ^ (-k).toNat : Nat) : Rat)⁻¹ := by
  rw [← two_zpow_of_nonneg (by omega), ← zpow_neg, neg_neg]

/-- The exponent's defining inequalities. -/
theorem floorLog2_spec {n d : Nat} (hn : 0 < n) (hd : 0 < d) :
    (2 : Rat) ^ floorLog2 n d ≤ n / d ∧ (n / d : Rat) < 2 ^ (floorLog2 n d + 1) := by
  have hd' : (0 : Rat) < d := by exact_mod_cast hd
  have hnl : (2 : Rat) ^ (n.log2 : Int) ≤ n := by exact_mod_cast Nat.log2_self_le hn.ne'
  have hnu : (n : Rat) < 2 ^ ((n.log2 : Int) + 1) := by exact_mod_cast Nat.lt_log2_self
  have hdl : (2 : Rat) ^ (d.log2 : Int) ≤ d := by exact_mod_cast Nat.log2_self_le hd.ne'
  have hdu : (d : Rat) < 2 ^ ((d.log2 : Int) + 1) := by exact_mod_cast Nat.lt_log2_self
  unfold floorLog2
  generalize (n.log2 : Int) = a at *
  generalize (d.log2 : Int) = b at *
  have hlow : (2 : Rat) ^ (a - b - 1) ≤ n / d := by
    rw [le_div_iff₀ hd']
    calc (2 : Rat) ^ (a - b - 1) * d ≤ 2 ^ (a - b - 1) * 2 ^ (b + 1) := by gcongr
      _ = 2 ^ a := by rw [← zpow_add₀ two_ne_zero]; congr 1; omega
      _ ≤ n := hnl
  have hhigh : (n / d : Rat) < 2 ^ (a - b + 1) := by
    rw [div_lt_iff₀ hd']
    calc (n : Rat) < 2 ^ (a + 1) := hnu
      _ = 2 ^ (a - b + 1) * 2 ^ b := by rw [← zpow_add₀ two_ne_zero]; congr 1; omega
      _ ≤ 2 ^ (a - b + 1) * d := by gcongr
  have hbelow : (if 0 ≤ a - b then n < d * 2 ^ (a - b).toNat else n * 2 ^ (-(a - b)).toNat < d) ↔
      (n / d : Rat) < 2 ^ (a - b) := by
    rw [div_lt_iff₀ hd']
    split_ifs with hk
    · rw [two_zpow_of_nonneg hk, mul_comm]
      norm_cast
    · rw [two_zpow_of_neg hk, lt_inv_mul_iff₀ (by positivity), mul_comm]
      norm_cast
  simp only [hbelow]
  split_ifs with h
  · exact ⟨hlow, by rwa [sub_add_cancel]⟩
  · exact ⟨not_lt.1 h, hhigh⟩

/-- The exponent of the unit that `roundBinary64` rounds to. -/
def unitExponent (q : Rat) : Int := max (floorLog2 q.num.natAbs q.den - 52) (-1074)

/-- The number of units nearest to `n / d`. -/
def significand (n d : Nat) (k : Int) : Nat :=
  if 0 ≤ k then roundHalfEven n (d * 2 ^ k.toNat) else roundHalfEven (n * 2 ^ (-k).toNat) d

theorem significand_spec (n : Nat) {d : Nat} (hd : 0 < d) (k : Int) :
    |(significand n d k : Rat) - n / d / 2 ^ k| ≤ 1 / 2 ∧
    (|(significand n d k : Rat) - n / d / 2 ^ k| = 1 / 2 → significand n d k % 2 = 0) := by
  unfold significand
  split_ifs with hk
  · have h := abs_roundHalfEven_sub n (d := d * 2 ^ k.toNat) (by positivity)
    rwa [Nat.cast_mul, ← two_zpow_of_nonneg hk, ← div_div] at h
  · have h := abs_roundHalfEven_sub (n * 2 ^ (-k).toNat) hd
    rwa [Nat.cast_mul, mul_div_right_comm, ← div_inv_eq_mul, ← two_zpow_of_neg hk] at h

theorem abs_eq_natAbs_div (q : Rat) : |q| = (q.num.natAbs : Rat) / q.den := by
  rw [Rat.abs_def, Rat.divInt_eq_div, Int.cast_natCast, Int.cast_natCast]

theorem roundBinary64_eq {q : Rat} (hq : q ≠ 0) : roundBinary64 q =
    if q.num < 0 then -(significand q.num.natAbs q.den (unitExponent q) * (2 : Rat) ^ unitExponent q)
    else significand q.num.natAbs q.den (unitExponent q) * (2 : Rat) ^ unitExponent q := by
  have hn : q.num.natAbs ≠ 0 := Int.natAbs_ne_zero.2 (Rat.num_ne_zero.2 hq)
  unfold roundBinary64
  dsimp only
  rw [if_neg hn]
  have hscale (m : Nat) (k : Int) :
      (if 0 ≤ k then (m : Rat) * (2 ^ k.toNat : Nat) else (m : Rat) / (2 ^ (-k).toNat : Nat)) = m * 2 ^ k := by
    split_ifs with hk
    · rw [two_zpow_of_nonneg hk]
    · rw [two_zpow_of_neg hk, div_eq_mul_inv]
  rw [hscale]
  rfl

/-- The unit is the format's at `q`. -/
theorem unitExponent_spec {q : Rat} (hq : q ≠ 0) :
    (unitExponent q = -1074 ∨ (2 : Rat) ^ 52 * 2 ^ unitExponent q ≤ |q|) ∧
      |q| < (2 : Rat) ^ 53 * 2 ^ unitExponent q := by
  have hnum : 0 < q.num.natAbs := Int.natAbs_pos.2 (Rat.num_ne_zero.2 hq)
  obtain ⟨hl, hu⟩ := floorLog2_spec hnum q.den_pos
  rw [← abs_eq_natAbs_div] at hl hu
  unfold unitExponent
  generalize floorLog2 q.num.natAbs q.den = e at *
  have hpow (j : Nat) (k : Int) : (2 : Rat) ^ j * 2 ^ k = 2 ^ (j + k) := by
    rw [zpow_add₀ two_ne_zero, zpow_natCast]
  rw [hpow, hpow]
  refine ⟨?_, hu.trans_le (zpow_le_zpow_right₀ one_le_two (by push_cast; omega))⟩
  rcases max_choice (e - 52) (-1074) with h | h
  · rw [h]
    exact .inr ((zpow_le_zpow_right₀ one_le_two (by push_cast; omega)).trans hl)
  · exact .inl h

/-- Rounding commutes with the sign. -/
theorem roundBinary64_sign {q : Rat} (hq : q ≠ 0) : ∃ σ : Int, |σ| = 1 ∧ q = σ * |q| ∧
    roundBinary64 q = (σ * significand q.num.natAbs q.den (unitExponent q) : Int) * (2 : Rat) ^ unitExponent q := by
  rw [roundBinary64_eq hq]
  split_ifs with hsign
  · refine ⟨-1, rfl, ?_, ?_⟩
    · rw [abs_of_neg (Rat.num_neg.1 hsign)]
      simp
    · simp
  · refine ⟨1, rfl, ?_, ?_⟩
    · rw [abs_of_nonneg (Rat.num_nonneg.1 (not_lt.1 hsign))]
      simp
    · simp

/-- The error of the rounding is that of the number of units. -/
theorem abs_roundBinary64_sub {q : Rat} {σ k : Int} {m : Nat} (hσ : |σ| = 1) (hq : q = σ * |q|)
    (hround : roundBinary64 q = (σ * m : Int) * (2 : Rat) ^ k) :
    |roundBinary64 q - q| = |(m : Rat) - |q| / 2 ^ k| * 2 ^ k := by
  have hpos : (0 : Rat) < 2 ^ k := by positivity
  have hσ' : |(σ : Rat)| = 1 := by exact_mod_cast hσ
  have hfactor : roundBinary64 q - q = σ * ((m - |q| / 2 ^ k) * 2 ^ k) := by
    rw [hround, sub_mul, div_mul_cancel₀ _ hpos.ne', mul_sub, ← hq]
    push_cast
    ring
  rw [hfactor, abs_mul, hσ', one_mul, abs_mul, abs_of_pos hpos]

/-- Settles O59: `significand` units of `2 ^ unitExponent q`, with the sign of `q`. -/
theorem binary64RoundsToNearestEven : Obligations.Binary64RoundsToNearestEven := by
  unfold Obligations.Binary64RoundsToNearestEven
  intro q
  rcases eq_or_ne q 0 with rfl | hq
  · have hround : roundBinary64 0 = 0 := rfl
    refine ⟨0, -1074, by decide, .inl rfl, ?_, by decide, .inl rfl, ?_, ?_, fun _ => rfl⟩
    · rw [abs_zero]
      positivity
    · rw [hround, Int.cast_zero, zero_mul]
    · rw [hround, sub_zero, abs_zero]
      positivity
  obtain ⟨hunit, hlt⟩ := unitExponent_spec hq
  obtain ⟨σ, hσ, hqσ, hround⟩ := roundBinary64_sign hq
  obtain ⟨hhalf, htie⟩ := significand_spec q.num.natAbs q.den_pos (unitExponent q)
  rw [← abs_eq_natAbs_div] at hhalf htie
  have hk : -1074 ≤ unitExponent q := le_max_right ..
  generalize significand q.num.natAbs q.den (unitExponent q) = m at *
  generalize unitExponent q = k at *
  have hpos : (0 : Rat) < 2 ^ k := by positivity
  have herror := abs_roundBinary64_sub hσ hqσ hround
  have hunits : (2 : Rat) ^ k / 2 = 1 / 2 * 2 ^ k := by ring
  have hm : |σ * (m : Int)| = m := by rw [abs_mul, hσ, one_mul, Nat.abs_cast]
  obtain ⟨hlo, hhi⟩ := abs_le.1 hhalf
  refine ⟨σ * m, k, hk, hunit, hlt, ?_, hunit.imp_right fun h => ?_, hround, ?_, fun h => ?_⟩
  · have hx := (div_lt_iff₀ hpos).2 hlt
    have hlt' : (m : Rat) < 2 ^ 53 + 1 := by linarith
    rw [hm]
    exact Int.le_of_lt_add_one (by exact_mod_cast hlt')
  · have hx := (le_div_iff₀ hpos).2 h
    have hlt' : (2 : Rat) ^ 52 < m + 1 := by linarith
    rw [hm]
    exact Int.le_of_lt_add_one (by exact_mod_cast hlt')
  · rw [herror, hunits]
    gcongr
  · rw [herror, hunits, mul_left_inj' hpos.ne'] at h
    rw [Int.mul_emod, show (m : Int) % 2 = 0 by exact_mod_cast htie h, mul_zero, Int.zero_emod]

/-! ## The presented values (42_compensation.md R232 to R235) -/

theorem presentTemperature_eq_none_iff (f : Rat → Rat) (S : Regs) :
    presentTemperature f S = none ↔ S.tValid = false := by
  unfold presentTemperature
  cases S.tValid <;> cases S.tunit <;> simp

theorem presentPressure_of_divisor {S : Regs} (hv : S.pValid = true) {d : Rat} (hd : pressureDivisor S.punit = some d)
    (f : Rat → Rat) : presentPressure f S = some (f (f (S.pOut.toNat / 256) / f d)) := by
  simp [presentPressure, hv, hd]

theorem presentPressure_of_no_divisor {S : Regs} (hv : S.pValid = true) (hd : pressureDivisor S.punit = none)
    (f : Rat → Rat) : presentPressure f S = some (f (S.pOut.toNat / 256)) := by
  simp [presentPressure, hv, hd]

theorem presentPressure_eq_none_iff (f : Rat → Rat) (S : Regs) : presentPressure f S = none ↔ S.pValid = false := by
  cases hv : S.pValid with
  | false => simp [presentPressure, hv]
  | true =>
    cases hd : pressureDivisor S.punit with
    | none => simp [presentPressure_of_no_divisor hv hd]
    | some d => simp [presentPressure_of_divisor hv hd]

theorem presentHumidity_eq_none_iff (f : Rat → Rat) (S : Regs) : presentHumidity f S = none ↔ S.hValid = false := by
  unfold presentHumidity
  cases S.hValid <;> simp

theorem presentTemperature_celsius {S : Regs} (hv : S.tValid = true) (hu : S.tunit = .celsius) (f : Rat → Rat) :
    presentTemperature f S = some (f (S.tOut.toInt / 100)) := by
  simp [presentTemperature, hv, hu]

theorem presentTemperature_fahrenheit {S : Regs} (hv : S.tValid = true) (hu : S.tunit = .fahrenheit) (f : Rat → Rat) :
    presentTemperature f S = some (f (f (f (f (S.tOut.toInt / 100) * 9) / 5) + 32)) := by
  simp [presentTemperature, hv, hu]

theorem presentHumidity_valid {S : Regs} (hv : S.hValid = true) (f : Rat → Rat) :
    presentHumidity f S = some (f (S.hOut.toNat / 1024)) := by
  simp [presentHumidity, hv]

/-- The codes whose unit is the pascal (42_compensation.md R233, R235). -/
theorem pressureDivisor_eq_none_iff (pu : BitVec 4) :
    pressureDivisor pu = none ↔ pu = 0#4 ∨ pu = 6#4 ∨ 8 ≤ pu.toNat := by
  revert pu
  decide

/-- The divisor of a code, 1 where nothing is divided. -/
def unitDivisor (pu : BitVec 4) : Rat := (pressureDivisor pu).getD 1

theorem unitDivisor_ne_zero (pu : BitVec 4) : unitDivisor pu ≠ 0 := by
  unfold unitDivisor pressureDivisor
  split <;> norm_num

/-- Settles O60, by VALID bit and unit. -/
theorem presentationIsExactWithoutRounding : Obligations.PresentationIsExactWithoutRounding := by
  unfold Obligations.PresentationIsExactWithoutRounding
  intro S f
  refine ⟨presentTemperature_eq_none_iff f S, presentPressure_eq_none_iff f S, presentHumidity_eq_none_iff f S,
    fun hv hu => ⟨presentTemperature_celsius hv hu f, presentTemperature_celsius hv hu id⟩,
    fun hv hu => ⟨presentTemperature_fahrenheit hv hu f, presentTemperature_fahrenheit hv hu id⟩,
    fun hv => ⟨presentHumidity_valid hv f, presentHumidity_valid hv id⟩, fun hv => ?_⟩
  simp only [← pressureDivisor_eq_none_iff]
  refine ⟨unitDivisor S.punit, unitDivisor_ne_zero _, ?_, fun hd => ⟨?_, presentPressure_of_no_divisor hv hd f⟩,
    fun hd => ?_, ?_⟩
  · cases hd : pressureDivisor S.punit with
    | none =>
      rw [presentPressure_of_no_divisor hv hd, unitDivisor, hd]
      simp
    | some d =>
      rw [presentPressure_of_divisor hv hd, unitDivisor, hd]
      rfl
  · rw [unitDivisor, hd]
    rfl
  · obtain ⟨d, hd⟩ := Option.ne_none_iff_exists'.1 hd
    rw [presentPressure_of_divisor hv hd, unitDivisor, hd]
    rfl
  · refine ⟨?_, ?_, ?_, ?_, ?_, ?_⟩ <;>
    · intro hu
      rw [hu]
      norm_num [unitDivisor, pressureDivisor]

end Sys2Proof.Machine
end

section
/-! SUPPORT. Proofs about orchestration (43_orchestration.md): the commands that acquire a sample and compute on it, and
READALL beside the sequence of the four commands it stands for. -/

namespace Sys2Proof.Machine

/-! ## READT, READP, READH and READALL on good answers -/

/-- An acquiring command that finishes on its sample commits the registers `S` it staged, its acquisition's transactions
made. -/
theorem exec_acquired_finish {i : Instr} {after : Run → Move} (h : Acquires i after) {s : State} {w : List Byte}
    {b0 b1 b2 b3 b4 b5 b6 b7 : Byte} {rest : List Reply} (hb : BurstAnswered s w b0 b1 b2 b3 b4 b5 b6 b7 rest)
    {code : ErrorCode} {S T : Regs}
    (hafter : after ((burstRun i s.regs).stage (acquired s.regs b0 b1 b2 b3 b4 b5 b6 b7)) =
      .finish code ((burstRun i s.regs).stage S))
    (hT : S.finished code = T) : exec i s = .next (afterBurst s T rest) := by
  obtain ⟨hp, -, hg, -⟩ := id hb
  subst hT
  apply exec_acquired h hb
  rw [hafter, State.settle_finishing (s := (afterBurst s s.regs rest).take (.finish code _)) rfl hg]
  simp [State.commit, State.take, afterBurst, hp]

/-- Settles O42: T_STEP on the sample is committed. -/
theorem readtReadsTheTemperature : Obligations.ReadtReadsTheTemperature := by
  unfold Obligations.ReadtReadsTheTemperature
  rintro s tu w b0 b1 b2 b3 b4 b5 b6 b7 rest S r hb rfl rfl
  exact exec_acquired_finish (acquires_readt tu) hb rfl rfl

section
variable {r : Run} {tu : TempUnit} {pu : BitVec 4} {P : PresStep}

/-- READP's end: P_STEP on what T_STEP leaves (43_orchestration.md R245). -/
theorem readpAfter_eq (hP : presStep pu (tempStep none r.staged) = P) :
    readpAfter pu r = .finish P.code (r.stage P.regs) :=
  hP ▸ rfl

/-- READALL's end: H_STEP follows P_STEP whatever its code (43_orchestration.md R249, R250). -/
theorem readallAfter_eq (hP : presStep pu (tempStep (some tu) r.staged) = P) :
    readallAfter tu pu r = .finish P.code (r.stage (humStep P.regs)) :=
  hP ▸ rfl

end

/-- Settles O43, by P_STEP's two outcomes on what T_STEP leaves. -/
theorem readpReadsThePressure : Obligations.ReadpReadsThePressure := by
  unfold Obligations.ReadpReadsThePressure
  rintro s pu w b0 b1 b2 b3 b4 b5 b6 b7 rest S T r hb rfl rfl rfl
  refine ⟨fun p hf => ?_, fun o hf => ?_⟩
  · have hP := presStep_of_pressure (pu := pu) (S := tempStep none (acquired s.regs b0 b1 b2 b3 b4 b5 b6 b7)) hf
    exact exec_acquired_finish (acquires_readp pu) hb (readpAfter_eq hP) rfl
  · have hP := presStep_of_div0 (pu := pu) (S := tempStep none (acquired s.regs b0 b1 b2 b3 b4 b5 b6 b7)) hf
    exact exec_acquired_finish (acquires_readp pu) hb (readpAfter_eq hP) rfl

/-- Settles O44: H_STEP on what T_STEP leaves is committed. -/
theorem readhReadsTheHumidity : Obligations.ReadhReadsTheHumidity := by
  unfold Obligations.ReadhReadsTheHumidity
  rintro s w b0 b1 b2 b3 b4 b5 b6 b7 rest S r h hb rfl rfl rfl
  exact exec_acquired_finish acquires_readh hb rfl rfl

/-- Settles O45, by P_STEP's two outcomes: H_STEP is run after either. -/
theorem readallReadsAllThree : Obligations.ReadallReadsAllThree := by
  unfold Obligations.ReadallReadsAllThree
  rintro s tu pu w b0 b1 b2 b3 b4 b5 b6 b7 rest S T r h hb rfl rfl rfl rfl
  refine ⟨fun p hf => ?_, fun o hf => ?_⟩
  · have hP := presStep_of_pressure (pu := pu) (S := tempStep (some tu) (acquired s.regs b0 b1 b2 b3 b4 b5 b6 b7)) hf
    exact exec_acquired_finish (acquires_readall tu pu) hb (readallAfter_eq hP) rfl
  · have hP := presStep_of_div0 (pu := pu) (S := tempStep (some tu) (acquired s.regs b0 b1 b2 b3 b4 b5 b6 b7)) hf
    exact exec_acquired_finish (acquires_readall tu pu) hb (readallAfter_eq hP) rfl

/-! ## READALL and the sequence READRAW, COMPT, COMPP, COMPH (43_orchestration.md R252) -/

section
variable {s : State} {run : Run}

/-- A running command that settles idle could move. -/
theorem State.canMove_of_settle_idle (hs : s.phase ≠ .idle) (h : s.settle.phase = .idle) : s.canMove = true := by
  by_contra hc
  rw [State.settle_of_not_canMove (Bool.eq_false_of_not_eq_true hc)] at h
  exact hs h

/-- A `finish` that has been committed was not held up by the host. -/
theorem State.goesOn_of_settle_finish {code : ErrorCode} (h : (s.take (.finish code run)).settle.phase = .idle) :
    GoesOn s.oracle := by
  rcases State.canMove_cases (State.canMove_of_settle_idle (by simp) h) with ⟨_, _, _, _, _, hp, -⟩ | ⟨_, _, -, ho⟩
  · cases hp
  · exact ho

/-- A transaction issued by a command that settles idle was answered. -/
theorem State.answer_of_settle_issue {txn : Txn} (h : (s.take (.issue txn run)).settle.phase = .idle) :
    ∃ success bytes rest, s.oracle = .answer success bytes :: rest := by
  rcases State.canMove_cases (State.canMove_of_settle_idle (by simp) h) with ⟨_, _, _, _, _, -, ho⟩ | ⟨_, _, hp, -⟩
  · exact ⟨_, _, _, ho⟩
  · cases hp

end

theorem exec_unique {s t u : State} {i : Instr} (ht : exec i s = .next t) (hu : exec i s = .next u) : t = u :=
  Host.Outcome.next.inj (ht.symm.trans hu)

/-- A burst's answer fails, or it is its eight bytes (41_sampler.md R162, R164). -/
theorem burst_answer_cases (success : Bool) (bytes : List Byte) :
    (success = false ∨ bytes.length ≠ 8) ∨
      success = true ∧ ∃ b0 b1 b2 b3 b4 b5 b6 b7, bytes = [b0, b1, b2, b3, b4, b5, b6, b7] := by
  by_cases hlen : bytes.length = 8
  · cases success with
    | false => exact .inl (.inl rfl)
    | true =>
      match bytes, hlen with
      | [b0, b1, b2, b3, b4, b5, b6, b7], _ => exact .inr ⟨rfl, b0, b1, b2, b3, b4, b5, b6, b7, rfl⟩
  · exact .inl (.inr hlen)

/-- READRAW finishes on its burst's answer, whatever it is. -/
theorem burstAnswered_readraw (r : Run) (answer : Option (List Byte)) :
    ∃ code run, burstAnswered readrawAfter r answer = .finish code run := by
  unfold burstAnswered
  split <;> exact ⟨_, _, rfl⟩

/-- The acquisition begun in `s` fails and leaves `u`, whichever command begins it: the flags are 0 and nothing is computed
(43_orchestration.md R241). -/
structure AcquisitionFails (s u : State) : Prop where
  cleared : u.regs.clearSample = u.regs
  same : ∀ i, (Command.legal i).acquires = true → exec i s = .next u

/-- READRAW fails as every acquiring command does. -/
theorem AcquisitionFails.of_readraw {s u v : State} (h : exec .readraw s = .next u) (hv : v.regs.clearSample = v.regs)
    (hsame : ∀ i, (Command.legal i).acquires = true → exec i s = .next v) : AcquisitionFails s u := by
  obtain rfl := exec_unique h (hsame _ rfl)
  exact ⟨hv, hsame⟩

section
variable {s u : State} (hp : s.phase = .idle) (h : exec .readraw s = .next u) (hu : u.phase = .idle)
include hp h hu

/-- READRAW ended idle once its burst was answered: that answer failed, or it is a sample. -/
theorem readraw_burst_cases (hr : s.regs.ready = true) {w bytes : List Byte} {success : Bool} {rest : List Reply}
    (ho : s.oracle = if s.regs.ctrlMeas.extractLsb' 0 2 = 1#2 then
        .answer true w :: .answer success bytes :: rest
      else .answer success bytes :: rest) :
    AcquisitionFails s u ∨ ∃ w b0 b1 b2 b3 b4 b5 b6 b7 rest, BurstAnswered s w b0 b1 b2 b3 b4 b5 b6 b7 rest := by
  have hg : GoesOn rest := by
    obtain ⟨code, run, hm⟩ := burstAnswered_readraw (burstRun .readraw s.regs) (burstTxn.outcome success bytes)
    obtain rfl := exec_unique h (exec_burst acquires_readraw hp hr ho rfl)
    rw [hm] at hu
    exact State.goesOn_of_settle_finish hu
  rcases burst_answer_cases success bytes with hfail | ⟨rfl, b0, b1, b2, b3, b4, b5, b6, b7, rfl⟩
  · refine .inl (.of_readraw h (v := afterBurst s { s.regs.cleared with err := .transportReadError } rest) rfl
      fun i hi => ?_)
    obtain ⟨-, -, hsleep, hforced⟩ := failedAcquisitionClearsEveryFlag s i success w bytes [] rest _ hi hp rfl
    by_cases hf : s.regs.ctrlMeas.extractLsb' 0 2 = 1#2
    · exact hforced hr hf hfail (ho.trans (if_pos hf)) hg
    · exact hsleep hr hf hfail (ho.trans (if_neg hf)) hg
  · exact .inr ⟨w, b0, b1, b2, b3, b4, b5, b6, b7, rest, hp, hr, hg, ho⟩

/-- READRAW ended idle: its acquisition failed, as any command's would have, or its sample was answered. -/
theorem readraw_cases :
    AcquisitionFails s u ∨ ∃ w b0 b1 b2 b3 b4 b5 b6 b7 rest, BurstAnswered s w b0 b1 b2 b3 b4 b5 b6 b7 rest := by
  have hsettle : (s.take (acquireBegin s.params (Run.start (.legal .readraw) s.regs))).settle.phase = .idle := by
    obtain rfl := exec_unique h (exec_idle hp rfl)
    exact hu
  cases hr : s.regs.ready with
  | false =>
    rw [acquireBegin_notReady _ _ hr] at hsettle
    have hg := State.goesOn_of_settle_finish hsettle
    exact .inl (.of_readraw h (by rfl) fun i hi =>
      (failedAcquisitionClearsEveryFlag s i true [] [] [] [] _ hi hp rfl).1 hr hg)
  | true =>
    rw [acquireBegin_ready _ _ hr] at hsettle
    by_cases hf : s.regs.ctrlMeas.extractLsb' 0 2 = 1#2
    · rw [if_pos hf] at hsettle
      obtain ⟨success, junk, rest, ho⟩ := State.answer_of_settle_issue hsettle
      rw [State.settle_rearm acquires_readraw rfl ho rfl] at hsettle
      cases success with
      | false =>
        have hg : GoesOn rest := State.goesOn_of_settle_finish hsettle
        exact .inl (.of_readraw h (by rfl) fun i hi =>
          (failedAcquisitionClearsEveryFlag s i true [] [] junk rest _ hi hp rfl).2.1 hr hf ho hg)
      | true =>
        obtain ⟨success, bytes, rest, rfl⟩ := State.answer_of_settle_issue hsettle
        exact readraw_burst_cases hp h hu hr (ho.trans (if_pos hf).symm)
    · rw [if_neg hf] at hsettle
      obtain ⟨success, bytes, rest, ho⟩ := State.answer_of_settle_issue hsettle
      exact readraw_burst_cases hp h hu hr (w := []) (ho.trans (if_neg hf).symm)

end

/-- A command that finished without a transaction has committed the registers `S` it staged. -/
theorem eq_of_exec_finish {s t : State} {i : Instr} (h : exec i s = .next t) (hp : s.phase = .idle) (ho : GoesOn s.oracle)
    {code : ErrorCode} {S : Regs}
    (hb : begins s.params i (Run.start (.legal i) s.regs) = .finish code ((Run.start (.legal i) s.regs).stage S)) :
    t = { s with regs := S.finished code } :=
  exec_unique h (exec_finish hp ho hb rfl)

@[simp] theorem presStep_regs_ready (pu : BitVec 4) (S : Regs) : (presStep pu S).regs.ready = S.ready := by
  rcases presStep_regs_cases pu S with ⟨_, -, hP⟩ | ⟨_, -, hP⟩ <;> rw [hP] <;> rfl

@[simp] theorem presStep_regs_rawValid (pu : BitVec 4) (S : Regs) : (presStep pu S).regs.rawValid = S.rawValid := by
  rcases presStep_regs_cases pu S with ⟨_, -, hP⟩ | ⟨_, -, hP⟩ <;> rw [hP] <;> rfl

section
variable {s1 s2 s3 s4 : State} {tu : TempUnit} {pu : BitVec 4} (hp1 : s1.phase = .idle) (hg : GoesOn s1.oracle)
  (h2 : exec (.compt tu) s1 = .next s2) (h3 : exec (.compp pu) s2 = .next s3) (h4 : exec .comph s3 = .next s4)
include hp1 hg h2 h3 h4

/-- After a failed acquisition COMPT, COMPP and COMPH fail their checks alike, and the VALID bits they clear are 0 already. -/
theorem sequence_of_cleared (hcleared : s1.regs.clearSample = s1.regs) :
    ∃ code, s4 = { s1 with regs := { s1.regs with err := code, aovf := false } } := by
  have hraw : s1.regs.rawValid = false := by rw [← hcleared]; rfl
  obtain ⟨code, hcheck⟩ : ∃ code, ∀ (needsTfine : Bool) (S : Regs), S.ready = s1.regs.ready → S.rawValid = false →
      dependencyCheck needsTfine S = some code := by
    cases hr : s1.regs.ready with
    | false => exact ⟨_, fun _ _ hS _ => dependencyCheck_notReady _ hS⟩
    | true => exact ⟨_, fun _ _ hS hv => dependencyCheck_violation hS (.inl hv)⟩
  obtain rfl := eq_of_exec_finish h2 hp1 hg (comptBegin_some (hcheck _ _ rfl hraw) tu)
  obtain rfl := eq_of_exec_finish h3 hp1 hg (comppBegin_some (hcheck _ _ rfl hraw) pu)
  obtain rfl := eq_of_exec_finish h4 hp1 hg (comphBegin_some (hcheck _ _ rfl hraw))
  refine ⟨code, ?_⟩
  rw [← hcleared]
  simp [Regs.finished]

/-- With a sample COMPT, COMPP and COMPH run T_STEP, P_STEP and H_STEP, and commit after each. -/
theorem sequence_of_sample (hr : s1.regs.ready = true) (hraw : s1.regs.rawValid = true) {T : Regs} {P : PresStep}
    (hT : (tempStep (some tu) { s1.regs with aovf := false }).finished .ok = T)
    (hP : presStep pu { T with aovf := false } = P) :
    s4 = { s1 with regs := (humStep { P.regs.finished P.code with aovf := false }).finished .ok } := by
  subst hT hP
  obtain rfl := eq_of_exec_finish h2 hp1 hg (comptBegin_none ((dependencyCheck_eq_none_iff _ _).2 ⟨hr, hraw, nofun⟩) tu)
  obtain rfl := eq_of_exec_finish h3 hp1 hg
    (comppBegin_none ((dependencyCheck_eq_none_iff _ _).2 ⟨hr, hraw, fun _ => rfl⟩) pu)
  exact eq_of_exec_finish h4 hp1 hg (comphBegin_none ((dependencyCheck_eq_none_iff _ _).2
    ⟨(presStep_regs_ready ..).trans hr, (presStep_regs_rawValid ..).trans hraw, fun _ => presStep_regs_tfineValid ..⟩))

end

/-- Settles O46: when the acquisition fails the three commands change nothing more, and when it succeeds both ways take the
same steps on the same sample, AOVF_ANY joining their overflows in the same order. -/
theorem readallEqualsTheSequence : Obligations.ReadallEqualsTheSequence := by
  unfold Obligations.ReadallEqualsTheSequence
  intro s s1 s2 s3 s4 t tu pu hp h1 hp1 hg h2 h3 h4 h
  rcases readraw_cases hp h1 hp1 with hf | ⟨w, b0, b1, b2, b3, b4, b5, b6, b7, rest, hb⟩
  · obtain ⟨code, rfl⟩ := sequence_of_cleared hp1 hg h2 h3 h4 hf.cleared
    obtain rfl := exec_unique h (hf.same _ rfl)
    rfl
  · obtain ⟨-, hr, -⟩ := id hb
    obtain rfl := exec_unique h1 (readrawTakesASample s w b0 b1 b2 b3 b4 b5 b6 b7 rest hb)
    have hall := readallReadsAllThree s tu pu w b0 b1 b2 b3 b4 b5 b6 b7 rest _ _ _ _ hb rfl rfl rfl rfl
    cases hf : presFormula (acquired s.regs b0 b1 b2 b3 b4 b5 b6 b7).adcP
        (tempFormula (acquired s.regs b0 b1 b2 b3 b4 b5 b6 b7).adcT (coeffs s.regs.cal)).tFine.val (coeffs s.regs.cal) with
    | pressure p =>
      have hall := hall.1 p hf
      rw [← Bool.or_assoc, ← Bool.or_assoc] at hall
      obtain rfl := exec_unique h hall
      obtain rfl := sequence_of_sample hp1 hg h2 h3 h4 hr rfl rfl (presStep_of_pressure hf)
      rfl
    | div0 o =>
      have hall := hall.2 o hf
      rw [← Bool.or_assoc, ← Bool.or_assoc] at hall
      obtain rfl := exec_unique h hall
      obtain rfl := sequence_of_sample hp1 hg h2 h3 h4 hr rfl rfl (presStep_of_div0 hf)
      rfl

end Sys2Proof.Machine
end

section
/-! SUPPORT. Proofs about exceptional conditions (60_exceptions.md): every step goes on to a next state, and no step but the
platform's reset takes back READY, AOVF_ANY or OVR. -/

namespace Sys2Proof.Machine

/-! ## No step ends in a fault or a refusal -/

theorem runWord_goesOn (w : Word) (s : State) : ∃ t, runWord w s = .next t := by
  cases h : decode w with
  | ok i => exact ⟨_, runWord_ok h s⟩
  | error e => exact ⟨_, runWord_error h s⟩

/-- Settles O48, by whose turn it is: a command word goes on whatever it decodes to, and any other move is complete. -/
theorem everyStepGoesOn : Obligations.EveryStepGoesOn := by
  unfold Obligations.EveryStepGoesOn
  intro s
  unfold step
  cases s.nextTurn with
  | command w t => exact runWord_goesOn w t
  | moved t => exact ⟨t, rfl⟩

/-! ## What stays once it is set -/

/-- From `s` to `t` READY stays with its table, and AOVF_ANY and OVR stay (60_exceptions.md R268; 10_state.md R38, R39). -/
structure State.KeepsFlags (s t : State) : Prop where
  ready : s.regs.ready = true → t.regs.ready = true ∧ t.regs.cal = s.regs.cal
  aovfAny : s.regs.aovfAny = true → t.regs.aovfAny = true
  ovr : s.ovr = true → t.ovr = true

section
variable {s t u : State}

/-- A move that changes no committed register can only take back OVR. -/
theorem State.KeepsFlags.of_regs_eq (hregs : t.regs = s.regs) (hovr : s.ovr = true → t.ovr = true) : s.KeepsFlags t := by
  refine ⟨fun h => ⟨?_, ?_⟩, fun h => ?_, hovr⟩ <;> rw [hregs]
  exacts [h, h]

theorem State.KeepsFlags.trans (hst : s.KeepsFlags t) (htu : t.KeepsFlags u) : s.KeepsFlags u where
  ready h := by
    obtain ⟨ht, hcal⟩ := hst.ready h
    obtain ⟨hu, hcal'⟩ := htu.ready ht
    exact ⟨hu, hcal'.trans hcal⟩
  aovfAny h := htu.aovfAny (hst.aovfAny h)
  ovr h := htu.ovr (hst.ovr h)

/-- Taking up a move does not touch OVR. -/
@[simp] theorem State.take_ovr (s : State) (m : Move) : (s.take m).ovr = s.ovr := by cases m <;> rfl

@[simp] theorem State.answered_ovr (s : State) (run : Run) (txn : Txn) (success : Bool) (bytes : List Byte) :
    (s.answered run txn success bytes).ovr = s.ovr := by
  unfold State.answered
  rw [State.take_ovr]

/-- The commit writes the staged copy, which stands beside the committed registers as the invariant says. -/
theorem State.Inv.commit_keepsFlags {run : Run} {code : ErrorCode} (h : s.Inv) (hp : s.phase = .finishing run code) :
    s.KeepsFlags (s.commit run code) where
  ready := (h.finishing run code hp).ready
  aovfAny ha := by simp [(h.finishing run code hp).sticky ha]
  ovr ho := ho

theorem State.Inv.blockStep_keepsFlags (h : s.Inv) (hc : s.canMove = true) : s.KeepsFlags s.blockStep := by
  rcases State.canMove_cases hc with ⟨run, txn, success, bytes, rest, hp, ho⟩ | ⟨run, code, hp, -⟩
  · rw [State.blockStep_answer hp ho]
    exact .of_regs_eq (State.answered_regs ..) fun hovr => (State.answered_ovr ..).trans hovr
  · rw [State.blockStep_finishing hp]
    exact h.commit_keepsFlags hp

theorem State.Inv.settle_keepsFlags (h : s.Inv) : s.KeepsFlags s.settle := by
  have hsettle : s.settle.Inv ∧ s.KeepsFlags s.settle :=
    State.settle_keeps (P := fun u => u.Inv ∧ s.KeepsFlags u)
      (fun _ hc ⟨hu, hflags⟩ => ⟨hu.blockStep hc, hflags.trans (hu.blockStep_keepsFlags hc)⟩) ⟨h, .of_regs_eq rfl id⟩
  exact hsettle.2

/-- Accepting a command keeps the flags if its first move, taken up by an idle block, meets the invariant. -/
theorem State.accept_keepsFlags {c : Command} {begin : Run → Move}
    (hbegin : s.phase = .idle → (s.take (begin (Run.start c s.regs))).Inv) : s.KeepsFlags (s.accept c begin) := by
  by_cases hp : s.phase = .idle
  · rw [State.accept_idle hp]
    exact .trans (.of_regs_eq (State.take_regs ..) fun hovr => (State.take_ovr ..).trans hovr)
      (hbegin hp).settle_keepsFlags
  · rw [State.accept_busy hp]
    exact .of_regs_eq rfl fun _ => rfl

theorem State.Inv.runWord_keepsFlags {w : Word} (h : s.Inv) (hr : runWord w s = .next t) : s.KeepsFlags t := by
  rcases runWord_cases hr with ⟨i, hwf, -, rfl⟩ | ⟨_, -, rfl⟩
  · exact State.accept_keepsFlags fun hp => stepKeeps_inv.begins s i hwf hp h
  · exact State.accept_keepsFlags fun hp => stepKeeps_inv.refuses s w hp h

/-- The host's turn: each of its accesses but the platform's reset. -/
theorem State.Inv.hostMove_keepsFlags {i : Input} (h : s.Inv) (hm : HostMove s i t) (hi : i ≠ .reset) :
    s.KeepsFlags t := by
  cases hm with
  | command hr => exact h.runWord_keepsFlags hr
  | ignored _ => exact .of_regs_eq rfl id
  | read => exact .of_regs_eq rfl id
  | reset => exact absurd rfl hi

/-- The host's turn taken, before its access. -/
theorem State.Inv.endWait (h : s.Inv) : s.endWait.Inv := by
  rcases s.endWait_cases with hw | ⟨-, rest, -, hw⟩ <;> rw [hw]
  exacts [h, stepKeeps_inv.oracle s rest h]

theorem State.endWait_keepsFlags (s : State) : s.KeepsFlags s.endWait :=
  .of_regs_eq s.endWait_regs fun hovr => s.endWait_ovr.trans hovr

end

/-- Settles O54, over everything a step can do: READY and AOVF_ANY change at a commit alone, and OVR is never cleared. -/
theorem onlyResetLeavesReady : Obligations.OnlyResetLeavesReady := by
  unfold Obligations.OnlyResetLeavesReady
  intro s t h hstep hturn
  have hflags : s.KeepsFlags t := by
    rcases step_cases hstep with ⟨-, rfl⟩ | ⟨-, -, rfl⟩ | ⟨hc, i, rest, hi, hm⟩
    · exact h.settle_keepsFlags
    · exact s.endWait_keepsFlags
    · have hreset : i ≠ .reset := by simpa [hc, hi] using hturn
      have hinv : { s.endWait with inputs := rest }.Inv := stepKeeps_inv.inputs _ rest h.endWait
      have hused : s.KeepsFlags { s.endWait with inputs := rest } := s.endWait_keepsFlags.trans (.of_regs_eq rfl id)
      exact hused.trans (hinv.hostMove_keepsFlags hm hreset)
  exact ⟨hflags.ready, hflags.aovfAny, hflags.ovr⟩

end Sys2Proof.Machine
end


section
/-! SUPPORT. Proofs about reset and hazards (70_reset_and_hazards.md): the platform's reset in any phase, a transaction
that never answers, and the grain of the step. -/

namespace Sys2Proof.Machine

/-! ## The platform's reset (R290, R292, R293) -/

theorem step_reset {s : State} {rest : List Input} (hc : s.canMove = false) (hi : s.inputs = .reset :: rest) :
    step s = .next { s.endWait with inputs := rest }.platformReset := by
  simp [step, State.nextTurn_host hc hi, State.hostTurnOf]

/-- A write outstanding at the reset may or may not have happened. -/
theorem State.platformReset_sensor_of_write {s : State} {run : Run} {a v : Byte}
    (h : s.phase = .waiting run (.write a v)) : s.platformReset.sensor = s.sensor.forget a.toNat := by
  simp [State.platformReset, h, Txn.effect]

theorem State.platformReset_sensor_of_not_write {s : State} (h : ∀ run a v, s.phase ≠ .waiting run (.write a v)) :
    s.platformReset.sensor = s.sensor := by
  unfold State.platformReset
  cases hp : s.phase with
  | idle => rfl
  | finishing run code => rfl
  | waiting run txn =>
    cases txn with
    | read a n => rfl
    | write a v => exact absurd hp (h run a v)

/-- Settles O55: the turn taken before the reset changes nothing that the reset reads. -/
theorem resetAbandonsTheCommand : Obligations.ResetAbandonsTheCommand := by
  unfold Obligations.ResetAbandonsTheCommand
  intro s t rest hc hi hstep
  rw [step_reset hc hi] at hstep
  injection hstep with ht
  subst ht
  have hphase : ({ s.endWait with inputs := rest } : State).phase = s.phase := s.endWait_phase
  refine ⟨?_, rfl, rfl, s.endWait_params, s.endWait_bus, fun run a v hp => ?_, fun hp => ?_⟩
  · rw [State.platformReset_regs, s.endWait_params]
  · rw [State.platformReset_sensor_of_write (hphase.trans hp), s.endWait_sensor]
  · rw [State.platformReset_sensor_of_not_write (by rwa [hphase]), s.endWait_sensor]

/-! ## A transaction that never answers (R304; 20_memory.md R69) -/

/-- In `t` the block stands where it stood in `s`: the same phase, committed registers and transactions issued, and the
same answers to come. -/
structure State.StandsAs (s t : State) : Prop where
  phase : t.phase = s.phase
  oracle : t.oracle = s.oracle
  regs : t.regs = s.regs
  bus : t.bus = s.bus

theorem State.StandsAs.refl (s : State) : s.StandsAs s := ⟨rfl, rfl, rfl, rfl⟩

theorem State.StandsAs.trans {s t u : State} (hst : s.StandsAs t) (htu : t.StandsAs u) : s.StandsAs u where
  phase := htu.phase.trans hst.phase
  oracle := htu.oracle.trans hst.oracle
  regs := htu.regs.trans hst.regs
  bus := htu.bus.trans hst.bus

/-- No access of the host but the platform's reset moves a busy block. -/
theorem HostMove.standsAs {s t : State} {i : Input} (hm : HostMove s i t) (hb : s.phase ≠ .idle) (hi : i ≠ .reset) :
    s.StandsAs t ∧ t.inputs = s.inputs := by
  cases hm with
  | command hr =>
    rw [runWord_busy hb] at hr
    injection hr with ht
    subst ht
    exact ⟨⟨rfl, rfl, rfl, rfl⟩, rfl⟩
  | ignored _ => exact ⟨.refl _, rfl⟩
  | read => exact ⟨⟨rfl, rfl, rfl, rfl⟩, rfl⟩
  | reset => exact absurd rfl hi

theorem State.endWait_silent {s : State} (ho : s.oracle = []) : s.endWait = s := by
  rcases s.endWait_cases with h | ⟨-, rest, hw, -⟩
  · exact h
  · simp [ho] at hw

/-- A step in front of a transaction that never answers is the host's, and leaves the block where it stands. -/
theorem step_silent {s u : State} {run : Run} {txn : Txn} (hp : s.phase = .waiting run txn) (ho : s.oracle = [])
    (hi : .reset ∉ s.inputs) (h : step s = .next u) : s.StandsAs u ∧ .reset ∉ u.inputs := by
  have hc : s.canMove = false := State.canMove_silent hp ho
  rcases step_cases h with ⟨hmove, -⟩ | ⟨-, -, rfl⟩ | ⟨-, i, rest, hinputs, hm⟩
  · simp [hc] at hmove
  · rw [State.endWait_silent ho]
    exact ⟨.refl s, hi⟩
  · rw [State.endWait_silent ho] at hm
    rw [hinputs, List.mem_cons, not_or] at hi
    obtain ⟨hne, hrest⟩ := hi
    obtain ⟨hstands, hu⟩ := hm.standsAs (by simp [hp]) (Ne.symm hne)
    exact ⟨⟨hstands.phase, hstands.oracle, hstands.regs, hstands.bus⟩, by rwa [hu]⟩

theorem core_run_silent {run : Run} {txn : Txn} (n : Nat) {s t : State} (hp : s.phase = .waiting run txn)
    (ho : s.oracle = []) (hi : .reset ∉ s.inputs) (h : core.run n s = .next t) : s.StandsAs t := by
  induction n generalizing s with
  | zero =>
    injection h with h
    exact h ▸ .refl s
  | succ n ih =>
    obtain ⟨u, hu⟩ := everyStepGoesOn s
    obtain ⟨hstands, hinputs⟩ := step_silent hp ho hi hu
    rw [core_run_succ hu] at h
    exact hstands.trans (ih (hstands.phase.trans hp) (hstands.oracle.trans ho) hinputs h)

/-- Settles O57, by induction on the number of steps. -/
theorem unansweredTransactionHangs : Obligations.UnansweredTransactionHangs := by
  unfold Obligations.UnansweredTransactionHangs
  intro n s t run txn hp ho hi h
  have hstands := core_run_silent n hp ho hi h
  exact ⟨hstands.phase.trans hp, hstands.regs, hstands.bus⟩

/-! ## The grain of the step (R306) -/

/-- The state in which the host is given no turn before the block moves on. -/
def State.withoutWaits (s : State) : State := { s with oracle := s.oracle.filter (· != Reply.wait) }

theorem State.withoutWaits_oracle_answer {s : State} {success : Bool} {bytes : List Byte} {rest : List Reply}
    (ho : s.oracle = .answer success bytes :: rest) :
    s.withoutWaits.oracle = .answer success bytes :: rest.filter (· != Reply.wait) := by
  simp [State.withoutWaits, ho]

theorem State.withoutWaits_oracle_ne_wait (s : State) : s.withoutWaits.oracle.head? ≠ some .wait := by
  intro h
  have hmem : Reply.wait ∈ s.oracle.filter (· != Reply.wait) := List.mem_of_head? h
  simp at hmem

theorem State.withoutWaits_of_wait {s : State} {rest : List Reply} (ho : s.oracle = .wait :: rest) :
    { s with oracle := rest }.withoutWaits = s.withoutWaits := by
  simp [State.withoutWaits, ho]

theorem State.withoutWaits_take (s : State) (m : Move) : (s.take m).withoutWaits = s.withoutWaits.take m := by
  cases m <;> rfl

/-- Without the `wait` entries, the block can move wherever it could with them. -/
theorem State.canMove_withoutWaits {s : State} (h : s.canMove = true) : s.withoutWaits.canMove = true := by
  rcases State.canMove_cases h with ⟨run, txn, success, bytes, rest, hp, ho⟩ | ⟨run, code, hp, -⟩
  · exact State.canMove_answer hp (State.withoutWaits_oracle_answer ho)
  · exact State.canMove_finishing hp s.withoutWaits_oracle_ne_wait

/-- One step of the block does not look at the `wait` entries to come. -/
theorem State.withoutWaits_blockStep {s : State} (h : s.canMove = true) :
    s.blockStep.withoutWaits = s.withoutWaits.blockStep := by
  rcases State.canMove_cases h with ⟨run, txn, success, bytes, rest, hp, ho⟩ | ⟨run, code, hp, -⟩
  · have ho' := State.withoutWaits_oracle_answer ho
    rw [State.blockStep_answer hp ho, State.blockStep_answer (s := s.withoutWaits) hp ho']
    exact State.withoutWaits_take _ _
  · rw [State.blockStep_finishing hp, State.blockStep_finishing (s := s.withoutWaits) hp]
    rfl

/-- Settling may begin with one step of the block. -/
theorem State.settle_blockStep {s : State} (h : s.canMove = true) : s.blockStep.settle = s.settle := by
  rcases State.canMove_cases h with ⟨run, txn, success, bytes, rest, hp, ho⟩ | ⟨run, code, hp, ho⟩
  · rw [State.blockStep_answer hp ho, State.settle_answer hp ho]
  · rw [State.blockStep_finishing hp, State.settle_finishing hp ho]
    exact State.settle_of_not_canMove (State.canMove_idle rfl)

/-- A block that has settled at a `wait` arrives where it would have arrived without one. -/
theorem State.settle_withoutWaits_settle (s : State) : s.settle.withoutWaits.settle = s.withoutWaits.settle := by
  refine State.settle_keeps (P := fun u => u.withoutWaits.settle = s.withoutWaits.settle) (fun u hc hu => ?_) rfl
  rw [State.withoutWaits_blockStep hc, State.settle_blockStep (State.canMove_withoutWaits hc), hu]

/-- Why the block does not move: it is idle, a `wait` is before it, or its transaction never answers. -/
theorem State.not_canMove_cases {s : State} (h : s.canMove = false) :
    s.phase = .idle ∨ (s.busy = true ∧ ∃ rest, s.oracle = .wait :: rest) ∨
      ∃ run txn, s.phase = .waiting run txn ∧ s.oracle = [] := by
  rw [State.busy_eq_true_iff]
  cases hp : s.phase with
  | idle => exact .inl rfl
  | finishing run code =>
    have hwait : s.oracle.head? = some .wait := by
      by_contra hw
      simp [State.canMove_finishing hp hw] at h
    exact .inr (.inl ⟨by simp, List.head?_eq_some_iff.1 hwait⟩)
  | waiting run txn =>
    cases ho : s.oracle with
    | nil => exact .inr (.inr ⟨run, txn, rfl, rfl⟩)
    | cons r rest =>
      cases r with
      | wait => exact .inr (.inl ⟨by simp, rest, rfl⟩)
      | answer success bytes => simp [State.canMove_answer hp ho] at h

/-- How many moves of the block and turns of the host can still come before a new command: one for each entry of the
oracle, and the commit. -/
def State.pending (s : State) : Nat := s.oracle.length + s.busy.toNat

theorem State.pending_blockStep_lt {s : State} (h : s.canMove = true) : s.blockStep.pending < s.pending := by
  have hbusy := State.busy_of_canMove h
  rcases State.canMove_cases h with ⟨run, txn, success, bytes, rest, hp, ho⟩ | ⟨run, code, hp, -⟩
  · have hlater : (({ s with oracle := rest } : State).answered run txn success bytes).busy = true :=
      State.busy_take _ _
    simp [State.pending, State.blockStep_answer hp ho, ho, hbusy, hlater]
  · simp [State.pending, State.blockStep_finishing hp, hbusy]

theorem State.pending_settle_le (s : State) : s.settle.pending ≤ s.pending :=
  State.settle_keeps (P := fun u => u.pending ≤ s.pending)
    (fun _ hc hu => (State.pending_blockStep_lt hc).le.trans hu) le_rfl

theorem State.pending_settle_lt {s : State} (h : s.canMove = true) : s.settle.pending < s.pending := by
  rw [← State.settle_blockStep h]
  exact s.blockStep.pending_settle_le.trans_lt (State.pending_blockStep_lt h)

/-- Taking up a move takes no access of the host. -/
@[simp] theorem State.take_inputs (s : State) (m : Move) : (s.take m).inputs = s.inputs := by cases m <;> rfl

@[simp] theorem State.answered_inputs (s : State) (run : Run) (txn : Txn) (success : Bool) (bytes : List Byte) :
    (s.answered run txn success bytes).inputs = s.inputs := by
  unfold State.answered
  rw [State.take_inputs]

/-- No step of the block takes an access of the host. -/
theorem State.settle_inputs (s : State) : s.settle.inputs = s.inputs := by
  refine State.settle_keeps (P := fun u => u.inputs = s.inputs) (fun u hc hu => ?_) rfl
  rcases State.canMove_cases hc with ⟨run, txn, success, bytes, rest, hp, ho⟩ | ⟨run, code, hp, -⟩
  · rw [State.blockStep_answer hp ho, State.answered_inputs, hu]
  · rw [State.blockStep_finishing hp, State.commit_inputs, hu]

/-- Some number of steps on, the machine is in `goal`, but for `wait` entries left over. -/
def State.Arrives (s goal : State) : Prop := ∃ (n : Nat) (t : State), core.run n s = .next t ∧ t.withoutWaits = goal

theorem State.Arrives.here {s goal : State} (h : s.withoutWaits = goal) : s.Arrives goal := ⟨0, s, rfl, h⟩

theorem State.Arrives.of_step {s u goal : State} (h : step s = .next u) (hu : u.Arrives goal) : s.Arrives goal := by
  obtain ⟨n, t, hrun, ht⟩ := hu
  exact ⟨n + 1, t, (core_run_succ h n).trans hrun, ht⟩

theorem step_block {s : State} (hc : s.canMove = true) : step s = .next s.settle := by
  simp [step, State.nextTurn, State.hostTurn, hc]

/-- The host, silent, uses up its turn. -/
theorem step_wait {s : State} {rest : List Reply} (hi : s.inputs = []) (hb : s.busy = true)
    (ho : s.oracle = .wait :: rest) : step s = .next { s with oracle := rest } := by
  simp [step, State.nextTurn, State.hostTurn, State.canMove_wait ho, State.endWait, hi, hb, ho]

/-- By induction on the moves still to come: the block's turn settles it, a turn of the host uses up a `wait`, and where
neither is to come the block stands still with `wait` entries or without. -/
theorem State.arrives_settle {s : State} (hi : s.inputs = []) : s.Arrives s.withoutWaits.settle := by
  induction hn : s.pending using Nat.strong_induction_on generalizing s with
  | _ n ih =>
    subst hn
    cases hc : s.canMove with
    | true =>
      have hrest := ih _ (State.pending_settle_lt hc) (s.settle_inputs.trans hi) rfl
      rw [s.settle_withoutWaits_settle] at hrest
      exact .of_step (step_block hc) hrest
    | false =>
      rcases State.not_canMove_cases hc with hp | ⟨hb, rest, ho⟩ | ⟨run, txn, hp, ho⟩
      · exact .here (State.settle_of_not_canMove (State.canMove_idle (s := s.withoutWaits) hp)).symm
      · have hlt : ({ s with oracle := rest } : State).pending < s.pending := by
          simp [State.pending, State.busy, ho]
        have hrest := ih _ hlt (s := { s with oracle := rest }) hi rfl
        rw [State.withoutWaits_of_wait ho] at hrest
        exact .of_step (step_wait hi hb ho) hrest
      · have hnone : s.withoutWaits.oracle = [] := by simp [State.withoutWaits, ho]
        exact .here (State.settle_of_not_canMove (State.canMove_silent (s := s.withoutWaits) hp hnone)).symm

/-- Settles O58, by induction on the moves still to come (`State.arrives_settle`). -/
theorem waitsDelayButDoNotChange : Obligations.WaitsDelayButDoNotChange := by
  unfold Obligations.WaitsDelayButDoNotChange
  intro s hi
  exact State.arrives_settle hi

end Sys2Proof.Machine
end
